-- ==== Sys2Proof/Word.lean ====
section
/-! DEFINITION. The words of the RegisterChain sequencer: the 32-bit command word (R9, R70), the byte of
the buffer and of the response (R7, R71), and the two line levels (R14). -/

namespace Sys2Proof

/-- A command word: 32 bits (R9, R70). -/
abbrev Word := BitVec 32

/-- A register of the chain, a byte of the buffer, a response word: 8 bits (R7, R71). -/
abbrev Byte := BitVec 8

/-- A line level (R14): `LOW` or `HIGH`. -/
inductive Level where
  | low
  | high
  deriving DecidableEq, Repr, Inhabited

end Sys2Proof
end

