-- ==== Sys2Proof/Syntax.lean ====
section
/-! DEFINITION. The commands (30_encoding.md R72): one constructor per row of spec/opcode_table.json, and
what decoding a word can answer (R74). -/

namespace Sys2Proof

/-- The six commands. The operands are the unsigned numbers of R75 and the boolean of R76. -/
inductive Instr where
  /-- R100: `n` is the register count. -/
  | construct (n : Nat)
  /-- R110: logical output `index`, boolean `value`. -/
  | setpin (index : Nat) (value : Bool)
  /-- R112. -/
  | setall (value : Bool)
  /-- R114. -/
  | clear
  /-- R130. -/
  | transmit
  /-- R150. -/
  | query
  deriving DecidableEq, Repr

/-- Why a word is Illegal. The spec gives one answer, `Illegal` (R74); the reasons are named for the
reader and nothing the machine does depends on which it is (log entry 24). -/
inductive IllegalWhy where
  /-- RZ1 or RZ2 is nonzero (R78). -/
  | reservedBits
  /-- OP is 0x6 .. 0xF (R77). -/
  | reservedOp
  /-- V or ARG is nonzero where R73 says it must be 0 (R78). -/
  | mustBeZero
  deriving DecidableEq, Repr

/-- The answer of the decoder: `Command | Illegal` (R74). -/
inductive Decoded where
  | command (i : Instr)
  | illegal (why : IllegalWhy)
  deriving DecidableEq, Repr

end Sys2Proof
end

