-- ==== Sys2Proof/WellFormed.lean ====
section
/-! DEFINITION. Which terms of `Instr` are commands that a word can spell: the operand of CONSTRUCT and of
SETPIN fits the 16-bit ARG field (R73, R75). Whether it is in range for the chain is checked when the
command executes (R162, R163), not here. -/

namespace Sys2Proof

/-- An operand fits the 16-bit ARG field (R70, R75). -/
abbrev fitsArg (x : Nat) : Prop := x < 2 ^ 16

/-- The command can be spelled by a command word (R73). -/
def Instr.wellFormed : Instr → Bool
  | .construct n => decide (fitsArg n)
  | .setpin index _ => decide (fitsArg index)
  | .setall _ => true
  | .clear => true
  | .transmit => true
  | .query => true

/-- `Instr.wellFormed` as a proposition. -/
abbrev Instr.WellFormed (i : Instr) : Prop := i.wellFormed = true

end Sys2Proof
end

