-- ==== Sys2Proof/Decode.lean ====
section
/-! DEFINITION. Decoding and encoding of the command word (30_encoding.md R70-R79). -/

namespace Sys2Proof

/-! ## Fields (R70) -/

/-- `OP`, bits 31:28. -/
def Word.op (w : Word) : BitVec 4 := w.extractLsb' 28 4

/-- `RZ1`, bits 27:25, reserved. -/
def Word.rz1 (w : Word) : BitVec 3 := w.extractLsb' 25 3

/-- `V`, bit 24. -/
def Word.v (w : Word) : Bool := w.getLsbD 24

/-- `RZ2`, bits 23:16, reserved. -/
def Word.rz2 (w : Word) : BitVec 8 := w.extractLsb' 16 8

/-- `ARG`, bits 15:0. -/
def Word.arg (w : Word) : BitVec 16 := w.extractLsb' 0 16

/-! ## The decoder (R74) -/

/-- Decode by OP, the reserved fields already seen to be zero (R74's case over OP). -/
def decodeOp (op : BitVec 4) (v : Bool) (arg : BitVec 16) : Decoded :=
  match op.toNat with
  | 0 => if v then .illegal .mustBeZero else .command (.construct arg.toNat)
  | 1 => .command (.setpin arg.toNat v)
  | 2 => if arg = 0 then .command (.setall v) else .illegal .mustBeZero
  | 3 => if v = false ∧ arg = 0 then .command .clear else .illegal .mustBeZero
  | 4 => if v = false ∧ arg = 0 then .command .transmit else .illegal .mustBeZero
  | 5 => if v = false ∧ arg = 0 then .command .query else .illegal .mustBeZero
  | _ => .illegal .reservedOp

/-- R74: a total function on all `2^32` words. -/
def decode (w : Word) : Decoded :=
  if w.rz1 ≠ 0 ∨ w.rz2 ≠ 0 then .illegal .reservedBits else decodeOp w.op w.v w.arg

/-! ## The encoder, from the match column and the fields of R73 -/

/-- The command word with the fields of R70, the reserved ones zero. -/
def packWord (op : BitVec 4) (v : Bool) (arg : BitVec 16) : Word :=
  (op.zeroExtend 32 <<< 28) ||| ((BitVec.ofBool v).zeroExtend 32 <<< 24) ||| arg.zeroExtend 32

/-- The word of a well-formed command (R73, R80). -/
def encode : Instr → Word
  | .construct n => packWord 0x0 false (BitVec.ofNat 16 n)
  | .setpin index value => packWord 0x1 value (BitVec.ofNat 16 index)
  | .setall value => packWord 0x2 value 0
  | .clear => packWord 0x3 false 0
  | .transmit => packWord 0x4 false 0
  | .query => packWord 0x5 false 0

/-! ## The opcode table as match and mask (R73, spec/opcode_table.json) -/

/-- One row of R73. -/
structure OpcodeRow where
  mnemonic : String
  matchBits : Word
  mask : Word
  deriving DecidableEq, Repr

/-- The rows of R73. -/
def opcodeTable : List OpcodeRow :=
  [ { mnemonic := "construct", matchBits := 0x00000000, mask := 0xFFFF0000 },
    { mnemonic := "setpin", matchBits := 0x10000000, mask := 0xFEFF0000 },
    { mnemonic := "setall", matchBits := 0x20000000, mask := 0xFEFFFFFF },
    { mnemonic := "clear", matchBits := 0x30000000, mask := 0xFFFFFFFF },
    { mnemonic := "transmit", matchBits := 0x40000000, mask := 0xFFFFFFFF },
    { mnemonic := "query", matchBits := 0x50000000, mask := 0xFFFFFFFF } ]

/-- A word spells the row's command exactly when `(w & mask) = match` (R73). -/
def OpcodeRow.spells (r : OpcodeRow) (w : Word) : Bool := w &&& r.mask == r.matchBits

/-- The mnemonic of a command (R72). -/
def Instr.mnemonic : Instr → String
  | .construct _ => "construct"
  | .setpin _ _ => "setpin"
  | .setall _ => "setall"
  | .clear => "clear"
  | .transmit => "transmit"
  | .query => "query"

/-! ## The table's numbering of bits -/

/-- The command word whose bits are `w`, bit 0 the least significant: every command is ONE 32-bit word
(R70, R79), so the table's numbering is the word's own; bits of `w` at or above `nbits` are not part of it. -/
def tableWord (nbits w : Nat) : Word := BitVec.ofNat 32 (w % 2 ^ nbits)

/-- The command the decoder reads from the word with the table's bits `w`. -/
def decodeTableWord (nbits w : Nat) : Option Instr :=
  match decode (tableWord nbits w) with
  | .command i => some i
  | .illegal _ => none

end Sys2Proof
end

