-- ==== Sys2Proof/Config.lean ====
section
/-! DEFINITION. What an implementation fixes (00_scope.md R5, R8, R12), and the free values: what the spec
leaves to a draw under no law (R11, R181, R184, R189). -/

namespace Sys2Proof

/-- The elaboration parameters of one block (R5, R8). DESIGN CHOICE: a pin identifier is a natural number of any
size; the spec gives neither its type nor its range, only that the three are distinct (log entry 2).
`CHAIN_REGS` is assumed equal to `N` (R10, log entry 15) and is therefore no field. -/
structure Config where
  /-- `MAX_REGS`: the capacity of the buffer in bytes, `1 .. 8191` (R5). -/
  maxRegs : Nat
  /-- `SER_PIN`, the platform's identifier of the serial-data line (R8). -/
  serPin : Nat
  /-- `CLK_PIN`, of the shift-clock line (R8). -/
  clkPin : Nat
  /-- `LAT_PIN`, of the latch line (R8). -/
  latPin : Nat
  deriving DecidableEq, Repr

/-- The reference configuration: `MAX_REGS = 25` (R5). DESIGN CHOICE: the pin identifiers 0, 1, 2; the
spec gives none and no rule depends on them (log entry 2). -/
def Config.reference : Config := { maxRegs := 25, serPin := 0, clkPin := 1, latPin := 2 }

/-- The timing parameters of R12, all OPEN: no rule of the model reads them. DESIGN CHOICE: each is a natural number
of one unnamed unit, so none is negative; the spec gives no type, unit or sign (log entry 29). -/
structure Timing where
  gap : Nat
  tSu : Nat
  tH : Nat
  tWh : Nat
  tWl : Nat
  tLat : Nat
  deriving DecidableEq, Repr

/-- Free value: the level `INIT_LEVEL(l)` that a line takes when it is configured and before it is first
written, the `d`-th draw (R11, D14, log entry 5). Nothing constrains it. -/
opaque Config.initLevel : Nat → Level

/-- Free value: position `i` of the `d`-th draw of chain bits, "any value" (R181, R184, R189, D32, log
entries 6 to 8). Nothing constrains it. -/
opaque Config.freeBit : Nat → Nat → Bool

end Sys2Proof
end

