-- ==== Sys2Proof/Machine/State.lean ====
section
/-! DEFINITION. The state of the block (10_state.md R20), of the external chain (60_exceptions.md R180), the
host's moves still to come (R176), the reasons a step can stop, and the state after reset (R38, R200). -/

namespace Sys2Proof.Machine

/-- `MODE` (R22). -/
inductive Mode where
  | unconfigured
  | idle
  | busy
  deriving DecidableEq, Repr

/-- `SEQ_OP` (R25): the running micro-sequence. -/
inductive SeqOp where
  | none
  | construct
  | transmit
  deriving DecidableEq, Repr

/-- The three lines (R8, R20). -/
inductive Line where
  | sdata
  | sclk
  | latch
  deriving DecidableEq, Repr

/-- `LINE[l].CFG` (R29): `Z` until the line is configured, `OUT` after. -/
inductive LineCfg where
  | z
  | out
  deriving DecidableEq, Repr

/-- `LINE[l].LEVEL` (R29): the level last written, or `UNKNOWN` with the draw `INIT_LEVEL(l)` that the
physical level then is (R11). -/
inductive LineLevel where
  | unknown (initLevel : Level)
  | known (lvl : Level)
  deriving DecidableEq, Repr

/-- `LINE[l]` (R20, R29). -/
structure LineState where
  cfg : LineCfg
  level : LineLevel
  deriving DecidableEq, Repr

/-- The three lines' states, each under its name (R20). -/
structure Lines where
  sdata : LineState
  sclk : LineState
  latch : LineState
  deriving DecidableEq, Repr

/-- A line event (R56, R57): one `PinConfigure` or one `PinWrite`. -/
inductive LineEvent where
  | config (l : Line)
  | write (l : Line) (lvl : Level)
  deriving DecidableEq, Repr

/-- The block's fault codes (R161), the ones a command can raise. They are not stops of the machine: a
command that faults is complete and the block goes on (R160). -/
inductive FaultCode where
  | configurationError
  | indexOutOfRange
  | illegalCommand
  | notConstructed
  | alreadyConstructed
  deriving DecidableEq, Repr

/-- What one micro-step does (R100, R131). -/
inductive MicroAct where
  /-- `PinConfigure(l)`. -/
  | configure (l : Line)
  /-- The zeroing step of a construction (`upc = 3`, R103). -/
  | zeroBuffer
  /-- `PinWrite(l, lvl)`. -/
  | write (l : Line) (lvl : Level)
  /-- `PinWrite(SDATA, level(bit_j))` (R132). -/
  | sendBit (j : Nat)
  /-- The last micro-step (R137). -/
  | finish
  deriving DecidableEq, Repr

/-- One move of the host (R176), in the order the host makes them. -/
inductive HostMove where
  /-- Let one step pass. -/
  | wait
  /-- Present a command word, as soon as the block is ready (R83). -/
  | present (w : Word)
  /-- Assert reset, before the next command or micro-step (R171, R205). -/
  | reset
  deriving DecidableEq, Repr

/-- The buffer `BUF` (R50): (address, byte) cells, addresses strictly rising, no cell equal to what an
unlisted address reads as. -/
abbrev Memory := List Host.Cell

/-- The whole state. -/
structure State where
  /-- The elaboration parameters, written by no step (R5, R8; log entry 1). -/
  cfg : Config
  /-- `MODE` (R22). -/
  mode : Mode
  /-- `N` (R23). -/
  n : BitVec 16
  /-- `BUF` (R34, R50). -/
  buf : Memory
  /-- `DIRTY` (R24). -/
  dirty : Bool
  /-- `SEQ_OP` (R25). -/
  seqOp : SeqOp
  /-- `upc` (R27). -/
  upc : Nat
  /-- `LAST_FAULT` (R26). -/
  lastFault : BitVec 4
  /-- `FAULT_SEEN` (R26). -/
  faultSeen : Bool
  /-- `RESP` (R28). -/
  resp : Byte
  /-- `LINE` (R29). -/
  lines : Lines
  /-- `TRACE`, oldest event first (R58). -/
  trace : List LineEvent
  /-- The chain's stages `S[0 .. 8N-1]` (R180). -/
  stages : List Bool
  /-- The chain's parallel outputs `Q[0 .. 8N-1]` (R180). -/
  outs : List Bool
  /-- The responses presented since reset, oldest first (R15 `respond`, R192; log entry 12). -/
  responses : List Byte
  /-- The host's moves still to come, next one first (R176; log entry 10). -/
  host : List HostMove
  /-- The model's own: how many free values have been drawn (log entry 9). -/
  draws : Nat
  deriving DecidableEq, Repr

/-- Why the machine stops. None of these can be reached by `step` from a state that meets the invariant. -/
inductive Fault where
  /-- Raised by every meaning: a command is run while `MODE = BUSY`, where the host has no move (R83, R211;
  93_implementation_defined.md item 14, "stuck"). `step` never does so. Safe. -/
  | commandWhileBusy
  /-- Raised by a step in BUSY when `SEQ_OP` and `upc` name no micro-step (R27 rules such states out). Safe. -/
  | noMicroStep
  /-- Raised by an access to `BUF[k]` with `k ≥ MAX_REGS`, which does not exist (R50). Safe. -/
  | noSuchBufferByte
  deriving DecidableEq, Repr

/-- Why there is no meaning. -/
inductive Refusal where
  /-- Raised by an arm of `exec` that has no meaning yet; no arm is left so. Safe. -/
  | notModelled (mnemonic : String)
  /-- Raised by `elaborate` for a configuration with a repeated pin identifier or an illegal `MAX_REGS`
  (R5, R8; 93_implementation_defined.md item 18, "refuse at elaboration"). Safe. -/
  | badConfiguration
  deriving DecidableEq, Repr

/-- A line right after reset: `Z` and `UNKNOWN` (R38). DESIGN CHOICE: the draw behind UNKNOWN, meaningless
while `CFG = Z`, is LOW until the line is configured (log entry 4). -/
def LineState.reset : LineState := { cfg := .z, level := .unknown .low }

/-- The state of a block with parameters `c` right after power-on (R38, R200). DESIGN CHOICE: `BUF` lists
nothing (log entry 3), `S` and `Q` have no position while `N = 0` (log entry 6), the response record and the
host's moves are empty and no value is drawn (log entries 9, 10, 12). -/
def State.powerOn (c : Config) : State :=
  { cfg := c
    mode := .unconfigured
    n := 0
    buf := []
    dirty := false
    seqOp := .none
    upc := 0
    lastFault := 0
    faultSeen := false
    resp := 0x00
    lines := { sdata := LineState.reset, sclk := LineState.reset, latch := LineState.reset }
    trace := []
    stages := []
    outs := []
    responses := []
    host := []
    draws := 0 }

/-- The machine right after reset, with the reference parameters (R5). -/
def State.reset : State := State.powerOn Config.reference

end Sys2Proof.Machine
end

