-- ==== Sys2Proof/Machine/Chain.lean ====
section
/-! DEFINITION. The external shift-register chain (60_exceptions.md R180-R188): how its stages and outputs react to a
line event. The machine uses the rising reading of the latch (R182, D21); the two other readings of R188 are
written here too, so that their equivalence can be stated. -/

namespace Sys2Proof.Machine

/-- The three readings of which latch level or transition copies (R182, R188; 90_conflicts.md C2). -/
inductive LatchReading where
  | rising
  | anyTransition
  | transparent
  deriving DecidableEq, Repr

/-- A write drives HIGH a line whose level was LOW (R143). -/
def isRising (before after : Level) : Bool := decide (after = .high) && decide (before = .low)

/-- A write drives LOW a line whose level was HIGH (R143). -/
def isFalling (before after : Level) : Bool := decide (after = .low) && decide (before = .high)

/-- A rising transition of SCLK: every stage takes its neighbour's bit, `S[0]` takes the bit of the data line,
the last stage's old bit leaves the chain (R181). -/
def shiftStages (bit : Bool) (stages : List Bool) : List Bool := (bit :: stages).take stages.length

/-- The outputs after a write of LATCH, from its level before and after (R182, R188). -/
def latchOutputs (r : LatchReading) (before after : Level) (stages outs : List Bool) : List Bool :=
  match r with
  | .rising => if isRising before after then stages else outs
  | .anyTransition => if before ≠ after then stages else outs
  | .transparent => if after = .high then stages else outs

/-- `8n` chain bits of any value, the `d`-th draw (R184, R189). -/
def freeBits (d n : Nat) : List Bool := (List.range (8 * n)).map (Config.freeBit d)

/-- The chain and the three line levels it sees, for replaying a list of writes under one reading. -/
structure Probe where
  sdata : Level
  sclk : Level
  latch : Level
  stages : List Bool
  outs : List Bool
  deriving DecidableEq, Repr

/-- In the transparent reading the outputs follow the stages while LATCH is HIGH (R188). -/
def followOutputs (r : LatchReading) (latch : Level) (stages outs : List Bool) : List Bool :=
  if r = .transparent ∧ latch = .high then stages else outs

/-- The chain's reaction to one write (R181-R183), under a reading of the latch. A configuration event is not
replayed: its effect is a draw (R184). -/
def Probe.event (r : LatchReading) (p : Probe) : LineEvent → Probe
  | .config _ => p
  | .write .sdata lvl => { p with sdata := lvl }
  | .write .sclk lvl =>
    let stages := if isRising p.sclk lvl then shiftStages (decide (p.sdata = .high)) p.stages else p.stages
    { p with sclk := lvl, stages := stages, outs := followOutputs r p.latch stages p.outs }
  | .write .latch lvl =>
    { p with latch := lvl, outs := latchOutputs r p.latch lvl p.stages p.outs }

/-- A list of events, in order (R64). -/
def Probe.replay (r : LatchReading) (events : List LineEvent) (p : Probe) : Probe :=
  events.foldl (Probe.event r) p

end Sys2Proof.Machine
end

