-- ==== Sys2Proof/Machine/Flags.lean ====
section
/-! DEFINITION. The only flag, `DIRTY` (R24, R36), the fault codes (R161) and the response word, in which the
flag and the code are reported (R71, R82). -/

namespace Sys2Proof.Machine

/-- The code of a fault (R161). -/
def FaultCode.code : FaultCode → BitVec 4
  | .configurationError => 0x1
  | .indexOutOfRange => 0x2
  | .illegalCommand => 0x3
  | .notConstructed => 0x4
  | .alreadyConstructed => 0x5

/-- The response word `{RZ3, Q, FCODE}` with `RZ3 = 000` (R71). -/
def responseWord (q : Bool) (fcode : BitVec 4) : Byte := 0#3 ++ (BitVec.ofBool q ++ fcode)

/-- The response of a command that completed with nothing to report (R82). -/
def responseDone : Byte := responseWord false 0

/-- `FCODE`, bits 3:0 of a response (R71). -/
def responseCode (r : Byte) : BitVec 4 := r.extractLsb' 0 4

/-- `Q`, bit 4 of a response (R71). -/
def responseQ (r : Byte) : Bool := r.getLsbD 4

/-- What the host learns from a response: it reads FCODE before Q (R150, R176), so a response that reports a
fault carries no answer (93_implementation_defined.md item 19). -/
def responseAnswer (r : Byte) : Option Bool := if responseCode r = 0 then some (responseQ r) else none

/-- `DIRTY <- 1`: a buffer command succeeded (R24). -/
def State.markDirty (s : State) : State := { s with dirty := true }

/-- `DIRTY <- 0`: a transmission ended (R24, R137). -/
def State.clearDirty (s : State) : State := { s with dirty := false }

end Sys2Proof.Machine
end

