-- ==== Sys2Proof/Machine/Operands.lean ====
section
/-! DEFINITION. Operand forms: the numbers a command and a micro-step compute from its operand, the register
count and the counter (R52, R75, R76, R110, R132). -/

namespace Sys2Proof.Machine

/-- `registerCount`, the number held in `N` (R23). -/
def State.regCount (s : State) : Nat := s.n.toNat

/-- The number of logical outputs, `8·N` (R6). -/
def State.outputCount (s : State) : Nat := 8 * s.regCount

/-- `CHAIN_REGS`, the length of the physical chain: `N` (R10, R191; log entry 15). -/
def State.chainRegs (s : State) : Nat := s.regCount

/-- A register count the block accepts (R101). -/
def legalCount (c : Config) (n : Nat) : Bool := decide (1 ≤ n) && decide (n ≤ c.maxRegs)

/-- The register that holds logical output `i` (R52). -/
def byteIndex (i : Nat) : Nat := i / 8

/-- The bit of it (R52). -/
def bitIndex (i : Nat) : Nat := i % 8

/-- `(BUF[k] & ~(1 << b)) | (v << b)` (R110). -/
def updateBit (x : Byte) (b : Nat) (v : Bool) : Byte :=
  (x &&& ~~~(1#8 <<< b)) ||| ((BitVec.ofBool v).zeroExtend 8 <<< b)

/-- The byte SETALL writes (R112, R113). -/
def fillByte (v : Bool) : Byte := if v then 0xFF else 0x00

/-- `level(1) = HIGH`, `level(0) = LOW` (R14). -/
def levelOf (b : Bool) : Level := if b then .high else .low

/-- `k_j`, the register the `j`-th bit sent is read from (R132). -/
def sentRegister (n j : Nat) : Nat := n - 1 - j / 8

/-- `b_j`, the bit of it (R132). -/
def sentBit (j : Nat) : Nat := 7 - j % 8

/-- The number of transmit micro-steps of a chain of `n` registers (R131). -/
def transmitSteps (n : Nat) : Nat := 24 * n + 3

/-- The number of micro-steps of a construction (R107). -/
def constructSteps (n : Nat) : Nat := 24 * n + 7

end Sys2Proof.Machine
end

