-- ==== Sys2Proof/Machine/Ops.lean ====
section
/-! DEFINITION. The shared operations: reading and writing the buffer, the primitives of R15 (`MemRead`, `MemWrite`,
`PinConfigure`, `PinWrite`, `raise Fault`, `respond`), the checks every command begins with (R165, R166) and
reset (R200, R205). Taking a fault is `raiseFault` (R160); there is no return from one (R169). -/

namespace Sys2Proof.Machine

/-- What a meaning answers. -/
abbrev Answer := Host.Outcome State Fault Refusal

/-! ## The buffer (R50, R52) -/

/-- What an unlisted byte of the buffer reads as. DESIGN CHOICE 0x00: the spec leaves the contents at reset
unspecified (R38; log entry 3). -/
def Memory.blank : Byte := 0x00

/-- `BUF[k]` (R15 `MemRead(k, 1)`). -/
def Memory.read : Memory → Nat → Byte
  | [], _ => Memory.blank
  | (a, v) :: m, k => if a = k then v else Memory.read m k

/-- `BUF[k] <- v` (R15 `MemWrite(k, 1, v)`), keeping the canonical form. -/
def Memory.write : Memory → Nat → Byte → Memory
  | [], k, v => if v = Memory.blank then [] else [(k, v)]
  | (a, u) :: m, k, v =>
    if k < a then (if v = Memory.blank then (a, u) :: m else (k, v) :: (a, u) :: m)
    else if k = a then (if v = Memory.blank then m else (k, v) :: m)
    else (a, u) :: Memory.write m k v

/-- `BUF[0 .. n-1] <- v`, from the last byte down (R112, R113). -/
def Memory.fill (m : Memory) : Nat → Byte → Memory
  | 0, _ => m
  | n + 1, v => Memory.fill (m.write n v) n v

/-- Every address of a memory is above `a`, rising, and no byte is blank. -/
def Memory.wfAbove : Memory → Nat → Bool
  | [], _ => true
  | (a, v) :: m, lo => decide (lo ≤ a) && decide (v ≠ Memory.blank) && Memory.wfAbove m (a + 1)

/-- The canonical form: addresses strictly rising, no byte equal to what an unlisted address reads as. -/
def Memory.wf (m : Memory) : Bool := Memory.wfAbove m 0

/-- Every listed address lies in the address space `0 .. size-1` (R50). -/
def Memory.within (m : Memory) (size : Nat) : Bool := m.all (fun c => decide (c.1 < size))

/-- `out(i) = BUF[i / 8][i % 8]` (R52). -/
def State.out (s : State) (i : Nat) : Bool := (s.buf.read (byteIndex i)).getLsbD (bitIndex i)

/-! ## Updates of one part of the state -/

/-- `respond(r)`: present response `r` to the host (R15, R28, R82). -/
def State.respond (s : State) (r : Byte) : State := { s with resp := r, responses := s.responses ++ [r] }

/-- `raise Fault(code)`: the whole effect of a command that faults (R160). -/
def raiseFault (c : FaultCode) (s : State) : State :=
  State.respond { s with lastFault := c.code, faultSeen := true } (responseWord false c.code)

/-- `BUF` replaced. -/
def State.setBuf (s : State) (m : Memory) : State := { s with buf := m }

/-- The host's moves still to come replaced. -/
def State.setHost (s : State) (moves : List HostMove) : State := { s with host := moves }

/-- `upc <- upc + 1` (R27). -/
def State.nextUpc (s : State) : State := { s with upc := s.upc + 1 }

/-- `LINE[l]` (R20). -/
def Lines.get (ls : Lines) : Line → LineState
  | .sdata => ls.sdata
  | .sclk => ls.sclk
  | .latch => ls.latch

/-- The lines with `LINE[l]` replaced. -/
def Lines.set (ls : Lines) (l : Line) (x : LineState) : Lines :=
  match l with
  | .sdata => { ls with sdata := x }
  | .sclk => { ls with sclk := x }
  | .latch => { ls with latch := x }

/-- The physical level of a line: the level last written, or the draw `INIT_LEVEL(l)` (R11, R29). -/
def LineLevel.physical : LineLevel → Level
  | .unknown d => d
  | .known lvl => lvl

/-- Set `LINE[l]` and append the event to `TRACE` (R56-R58). -/
def State.lineEvent (s : State) (l : Line) (x : LineState) (e : LineEvent) : State :=
  { s with lines := s.lines.set l x, trace := s.trace ++ [e] }

/-- The bit the chain captures from the data line: 1 for HIGH, any value when `SDATA` is `UNKNOWN` (R181). -/
def State.sampledBit (s : State) : Bool :=
  match s.lines.sdata.level with
  | .known lvl => decide (lvl = .high)
  | .unknown _ => Config.freeBit s.draws 0

/-- How many free values the capture draws. -/
def State.sampleDraws (s : State) : Nat :=
  match s.lines.sdata.level with
  | .known _ => 0
  | .unknown _ => 1

/-- A rising transition of `SCLK` at the chain (R181). -/
def State.shiftChain (s : State) : State :=
  { s with stages := shiftStages s.sampledBit s.stages, draws := s.draws + s.sampleDraws }

/-- What the chain does at a write of line `l` that takes it from `before` to `lvl` (R181-R183). -/
def State.chainReact (s : State) (l : Line) (before lvl : Level) : State :=
  match l with
  | .sdata => s
  | .sclk => if isRising before lvl then s.shiftChain else s
  | .latch => { s with outs := latchOutputs .rising before lvl s.stages s.outs }

/-- What the chain does at a configuration of line `l`: any value for `S` or `Q` (R184), nothing at SDATA (R183). -/
def State.chainDraw (s : State) (l : Line) (d : Nat) : State :=
  match l with
  | .sdata => s
  | .sclk => { s with stages := freeBits d s.chainRegs }
  | .latch => { s with outs := freeBits d s.chainRegs }

/-- `PinConfigure(l)` (R56, R184). It draws two free values: the line's initial level (R11) and the chain's bits. -/
def pinConfigure (l : Line) (s : State) : State :=
  let d := s.draws
  let s1 := s.lineEvent l { cfg := .out, level := .unknown (Config.initLevel d) } (.config l)
  { s1.chainDraw l (d + 1) with draws := d + 2 }

/-- `PinWrite(l, lvl)` (R57), with the chain's reaction to the transition (R143, R181-R183). -/
def pinWrite (l : Line) (lvl : Level) (s : State) : State :=
  let line := s.lines.get l
  (s.lineEvent l { line with level := .known lvl } (.write l lvl)).chainReact l line.level.physical lvl

/-! ## Checked accesses to the buffer -/

/-- Write `BUF[k]` and go on; the byte does not exist at or above `MAX_REGS` (R50). -/
def storeByte (k : Nat) (v : Byte) (s : State) (next : State → Answer) : Answer :=
  if k < s.cfg.maxRegs then next (s.setBuf (s.buf.write k v)) else .fault .noSuchBufferByte

/-- Write every byte of `BUF[0 .. N-1]` and go on (R112-R114). -/
def fillBuffer (v : Byte) (s : State) (next : State → Answer) : Answer :=
  if s.regCount ≤ s.cfg.maxRegs then next (s.setBuf (s.buf.fill s.regCount v))
  else .fault .noSuchBufferByte

/-- Read `BUF[k]` and go on (R15, R134). -/
def loadByte (k : Nat) (s : State) (next : Byte → Answer) : Answer :=
  if k < s.cfg.maxRegs then next (s.buf.read k) else .fault .noSuchBufferByte

/-- The effect of CLEAR on buffer and flag: `BUF[0 .. N-1] <- 0x00`, `DIRTY <- 1` (R114, R103). -/
def zeroBuffer (s : State) (next : State → Answer) : Answer :=
  fillBuffer (fillByte false) s fun t => next t.markDirty

/-! ## The checks a command begins with -/

/-- A command that ends with a fault is complete in the accepting step (R160). -/
def faulted (c : FaultCode) (s : State) : Answer := .next (raiseFault c s)

/-- No command runs while BUSY: there the host has no move (R83, R211). -/
def whenReady (s : State) (next : Answer) : Answer :=
  if s.mode = .busy then .fault .commandWhileBusy else next

/-- The mode check of SETPIN, SETALL, CLEAR, TRANSMIT and QUERY (R165). -/
def whenConstructed (s : State) (next : Answer) : Answer :=
  whenReady s (if s.mode = .unconfigured then faulted .notConstructed s else next)

/-- The mode check of CONSTRUCT (R166). -/
def whenUnconfigured (s : State) (next : Answer) : Answer :=
  whenReady s (if s.mode = .unconfigured then next else faulted .alreadyConstructed s)

/-- A command completes with nothing to report (R82). -/
def completed (s : State) : Answer := .next (s.respond responseDone)

/-- Start a micro-sequence (R27, R83). -/
def startSequence (op : SeqOp) (s : State) : State := { s with mode := .busy, seqOp := op, upc := 0 }

/-! ## Reset -/

/-- Reset: every piece of state at its reset value, whatever was running is abandoned (R200, R205). The
parameters, the host's further moves and the count of drawn values are not the block's state and stay
(log entries 9, 10, 19). -/
def resetBlock (s : State) : State := { State.powerOn s.cfg with host := s.host, draws := s.draws }

/-- A configuration becomes a machine after reset, unless it is refused (R5, R8). -/
def configOk (c : Config) : Bool :=
  decide (1 ≤ c.maxRegs) && decide (c.maxRegs ≤ 8191) &&
    (decide (c.serPin ≠ c.clkPin) && decide (c.serPin ≠ c.latPin) && decide (c.clkPin ≠ c.latPin))

/-- Elaboration: the state after reset of a block with parameters `c`; a configuration with a repeated pin
identifier or an illegal `MAX_REGS` is refused (R5, R8; 93_implementation_defined.md item 18). -/
def elaborate (c : Config) : Answer :=
  if configOk c then .next (State.powerOn c) else .refused .badConfiguration

end Sys2Proof.Machine
end

