-- ==== Sys2Proof/Machine/Buffer.lean ====
section
/-! DEFINITION. The buffer commands SETPIN, SETALL, CLEAR (41_buffer.md) and QUERY (43_query.md). Each completes in the
step that accepts it (R83). -/

namespace Sys2Proof.Machine

/-- SETPIN (R110). -/
def execSetpin (index : Nat) (value : Bool) (s : State) : Answer :=
  whenConstructed s <|
    if s.outputCount ≤ index then faulted .indexOutOfRange s
    else
      let k := byteIndex index
      loadByte k s fun x =>
        storeByte k (updateBit x (bitIndex index) value) s fun t => completed t.markDirty

/-- SETALL (R112, as the one assignment R113 allows). -/
def execSetall (value : Bool) (s : State) : Answer :=
  whenConstructed s <| fillBuffer (fillByte value) s fun t => completed t.markDirty

/-- CLEAR (R114). -/
def execClear (s : State) : Answer := whenConstructed s <| zeroBuffer s completed

/-- QUERY (R150): `RESP <- {000, DIRTY, 0000}`, nothing else. -/
def execQuery (s : State) : Answer :=
  whenConstructed s <| .next (s.respond (responseWord s.dirty 0))

end Sys2Proof.Machine
end

