-- ==== Sys2Proof/Machine/Sequence.lean ====
section
/-! DEFINITION. CONSTRUCT (40_construct.md) and TRANSMIT (42_transmit.md): their accepting steps, and the micro-steps of the
sequence each starts (R27, R100, R131). -/

namespace Sys2Proof.Machine

/-! ## Accepting steps -/

/-- `N <- n` (R100). With `N` the chain's `8N` stages and outputs come into the model, at any value (R180, R189;
log entry 6). -/
def State.setCount (s : State) (n : Nat) : State :=
  { s with
    n := BitVec.ofNat 16 n
    stages := freeBits s.draws n
    outs := freeBits (s.draws + 1) n
    draws := s.draws + 2 }

/-- CONSTRUCT, accepting step (R100): the checks, then `N <- n` and the start of the sequence. -/
def execConstruct (n : Nat) (s : State) : Answer :=
  whenUnconfigured s <|
    if legalCount s.cfg n then
      .next (startSequence .construct (s.setCount n))
    else faulted .configurationError s

/-- TRANSMIT, accepting step (R130). `DIRTY` is not tested (R138). -/
def execTransmit (s : State) : Answer := whenConstructed s <| .next (startSequence .transmit s)

/-! ## The micro-sequences -/

/-- Row `k` of the table of R131, for a chain of `n` registers. -/
def transmitAct (n k : Nat) : Option MicroAct :=
  if k = 0 then some (.write .latch .low)
  else if k ≤ 24 * n then
    match (k - 1) % 3 with
    | 0 => some (.write .sclk .low)
    | 1 => some (.sendBit ((k - 1) / 3))
    | _ => some (.write .sclk .high)
  else if k = 24 * n + 1 then some (.write .latch .high)
  else if k = 24 * n + 2 then some .finish
  else none

/-- Micro-step `u` of a construction (R100): configure the lines in the order of R102, zero the buffer (R103),
then the transmission (R104). -/
def constructAct (n u : Nat) : Option MicroAct :=
  match u with
  | 0 => some (.configure .sdata)
  | 1 => some (.configure .sclk)
  | 2 => some (.configure .latch)
  | 3 => some .zeroBuffer
  | k + 4 => transmitAct n k

/-- The micro-step `SEQ_OP` and `upc` name (R27). -/
def currentAct (s : State) : Option MicroAct :=
  match s.seqOp with
  | .none => none
  | .construct => constructAct s.regCount s.upc
  | .transmit => transmitAct s.regCount s.upc

/-- The micro-step is done, the counter moves on (R27). -/
def advance (s : State) : Answer := .next s.nextUpc

/-- The last micro-step: `DIRTY <- 0`, `RESP <- 0x00`, `upc <- 0`, `SEQ_OP <- NONE`, `MODE <- IDLE` (R131, R137). -/
def finishSequence (s : State) : State :=
  { s.clearDirty.respond responseDone with upc := 0, seqOp := .none, mode := .idle }

/-- One micro-step's action and the counter's advance (R27, R100, R131). -/
def runAct (a : MicroAct) (s : State) : Answer :=
  match a with
  | .configure l => advance (pinConfigure l s)
  | .zeroBuffer => zeroBuffer s advance
  | .write l lvl => advance (pinWrite l lvl s)
  | .sendBit j =>
    loadByte (sentRegister s.regCount j) s fun x =>
      advance (pinWrite .sdata (levelOf (x.getLsbD (sentBit j))) s)
  | .finish => .next (finishSequence s)

/-- A step in BUSY. -/
def microStep (s : State) : Answer :=
  match currentAct s with
  | some a => runAct a s
  | none => .fault .noMicroStep

end Sys2Proof.Machine
end

