-- ==== Sys2Proof/Machine/Dispatch.lean ====
section
/-! DEFINITION. The dispatch of a decoded command to its meaning (30_encoding.md R72). -/

namespace Sys2Proof.Machine

def exec (i : Instr) (s : State) : Host.Outcome State Fault Refusal :=
  match i with
  | .construct n => Sys2Proof.Machine.execConstruct n s
  | .setpin index value => Sys2Proof.Machine.execSetpin index value s
  | .setall value => Sys2Proof.Machine.execSetall value s
  | .clear => Sys2Proof.Machine.execClear s
  | .transmit => Sys2Proof.Machine.execTransmit s
  | .query => Sys2Proof.Machine.execQuery s

end Sys2Proof.Machine
end

