-- ==== Sys2Proof/Machine/Port.lean ====
section
/-! DEFINITION. The command port (30_encoding.md R83, 60_exceptions.md R176): accepting a word, the host's moves, and
what one step of the machine is. -/

namespace Sys2Proof.Machine

/-- Accept one command word: decode it first (R167), execute the command, or raise IllegalCommand (R74, R164). -/
def acceptWord (w : Word) (s : State) : Answer :=
  match decode w with
  | .command i => exec i s
  | .illegal _ => faulted .illegalCommand s

/-- A step while the block is ready (R83, R176, R177): the host presents a word, waits, or has no move left. -/
def readyStep (s : State) : Answer :=
  match s.host with
  | .present w :: rest => acceptWord w (s.setHost rest)
  | .wait :: rest => .next (s.setHost rest)
  | .reset :: rest => .next (resetBlock (s.setHost rest))
  | [] => .next s

/-- The host's list after a step in which the block is BUSY: a wait has passed, a word to be presented is
still to be presented (R83, R211). -/
def movesAfterBusy : List HostMove → List HostMove
  | .wait :: rest => rest
  | moves => moves

/-- One step of the machine: reset wins over everything (R171, R205); while BUSY one micro-step, and no
command is accepted (R83, R211); else the host's next move. -/
def stepMachine (s : State) : Answer :=
  match s.host with
  | .reset :: rest => .next (resetBlock (s.setHost rest))
  | _ =>
    match s.mode with
    | .busy => microStep (s.setHost (movesAfterBusy s.host))
    | _ => readyStep s

/-- The host presents `w` next, before its other moves. -/
def presentNext (w : Word) (s : State) : State := s.setHost (.present w :: s.host)

end Sys2Proof.Machine
end

