-- ==== Sys2Proof/Machine/Step.lean ====
section
/-! DEFINITION. The step function, and placing a command where the next step takes it. -/

namespace Sys2Proof.Machine

/-- One step: an accepted command, a micro-step, a wait or a reset (log entry 25). -/
def step (s : State) : Host.Outcome State Fault Refusal := stepMachine s

/-- `s` with the command word of the table's bits `w` as the host's next move: the block has no program memory,
it takes its commands from the host (R27, R67, R83; log entry 10). While BUSY the block first runs its
micro-sequence to the end (R211). -/
def State.withFetchWord (s : State) (nbits w : Nat) : State := presentNext (tableWord nbits w) s

end Sys2Proof.Machine
end

