-- ==== Sys2Proof/Machine/Assembler.lean ====
section
/-! DEFINITION. The textual syntax of commands, one a line (30_encoding.md R80, R81). It is no part of the block: it makes
the words a host presents. What R80 leaves to the reader (white space, empty lines, the case of a hexadecimal
digit) is in log entry 23. -/

namespace Sys2Proof.Machine

/-- A line of the syntax: a command or a raw word (R80). There are no pseudo-instructions (R81). -/
inductive AsmLine where
  | command (i : Instr)
  | word (w : Nat)
  deriving DecidableEq, Repr

/-- Why a line is refused. -/
inductive AsmError where
  /-- No line of R80's table. -/
  | badSyntax
  /-- An operand that does not fit its field (R80). -/
  | operandTooWide
  deriving DecidableEq, Repr

/-- The word a line stands for; an operand that does not fit its field is refused, a value the block would fault
on at execution is not (R80). -/
def AsmLine.assemble : AsmLine → Except AsmError Word
  | .command i => if i.wellFormed then .ok (encode i) else .error .operandTooWide
  | .word w => if w < 2 ^ 32 then .ok (BitVec.ofNat 32 w) else .error .operandTooWide

/-- A decimal digit. -/
def decimalDigit (c : Char) : Option Nat :=
  if 48 ≤ c.toNat ∧ c.toNat ≤ 57 then some (c.toNat - 48) else none

/-- A hexadecimal digit, of either case. -/
def hexDigit (c : Char) : Option Nat :=
  if 97 ≤ c.toNat ∧ c.toNat ≤ 102 then some (c.toNat - 87)
  else if 65 ≤ c.toNat ∧ c.toNat ≤ 70 then some (c.toNat - 55)
  else decimalDigit c

/-- The number a list of digits spells in a base, onto what has been read so far. -/
def readDigits (base : Nat) (digit : Char → Option Nat) : List Char → Nat → Option Nat
  | [], acc => some acc
  | c :: cs, acc =>
    match digit c with
    | some d => readDigits base digit cs (acc * base + d)
    | none => none

/-- A number: decimal, or `0x` and hexadecimal digits (R80). -/
def readNumber : List Char → Option Nat
  | [] => none
  | '0' :: 'x' :: [] => none
  | '0' :: 'x' :: cs => readDigits 16 hexDigit cs 0
  | cs => readDigits 10 decimalDigit cs 0

/-- The operand `v`: `0` or `1`, or `false` or `true` (R80). -/
def readValue (cs : List Char) : Option Bool :=
  if cs = ['f', 'a', 'l', 's', 'e'] then some false
  else if cs = ['t', 'r', 'u', 'e'] then some true
  else
    match readNumber cs with
    | some 0 => some false
    | some 1 => some true
    | _ => none

/-- Text after `;` is a comment (R80). -/
def stripComment (cs : List Char) : List Char := cs.takeWhile (· ≠ ';')

/-- White space between the parts of a line. -/
def isBlankChar (c : Char) : Bool := c = ' ' || c = '\t' || c = '\r'

/-- Put a finished token, unless it is empty, before the tokens that follow it. -/
def pushToken (token : List Char) (rest : List (List Char)) : List (List Char) :=
  if token = [] then rest else token :: rest

/-- The tokens of a line: runs of characters that are neither blank nor a comma, and each comma. -/
def tokens : List Char → List Char → List (List Char)
  | [], token => pushToken token []
  | c :: cs, token =>
    if isBlankChar c then pushToken token (tokens cs [])
    else if c = ',' then pushToken token ([','] :: tokens cs [])
    else tokens cs (token ++ [c])

/-- The line a list of tokens spells; no tokens is an empty line (R80). -/
def parseTokens : List (List Char) → Except AsmError (Option AsmLine)
  | [] => .ok none
  | [m] =>
    if m = ['c', 'l', 'e', 'a', 'r'] then .ok (some (.command .clear))
    else if m = ['t', 'r', 'a', 'n', 's', 'm', 'i', 't'] then .ok (some (.command .transmit))
    else if m = ['q', 'u', 'e', 'r', 'y'] then .ok (some (.command .query))
    else .error .badSyntax
  | [m, a] =>
    if m = ['c', 'o', 'n', 's', 't', 'r', 'u', 'c', 't'] then
      match readNumber a with
      | some n => .ok (some (.command (.construct n)))
      | none => .error .badSyntax
    else if m = ['s', 'e', 't', 'a', 'l', 'l'] then
      match readValue a with
      | some v => .ok (some (.command (.setall v)))
      | none => .error .badSyntax
    else if m = ['.', 'w', 'o', 'r', 'd'] then
      match readNumber a with
      | some w => .ok (some (.word w))
      | none => .error .badSyntax
    else .error .badSyntax
  | [m, a, comma, b] =>
    if m = ['s', 'e', 't', 'p', 'i', 'n'] ∧ comma = [','] then
      match readNumber a, readValue b with
      | some index, some v => .ok (some (.command (.setpin index v)))
      | _, _ => .error .badSyntax
    else .error .badSyntax
  | _ => .error .badSyntax

/-- Assemble one line: no word for an empty line or a line that is only a comment. -/
def assembleLine (cs : List Char) : Except AsmError (Option Word) :=
  match parseTokens (tokens (stripComment cs) []) with
  | .error e => .error e
  | .ok none => .ok none
  | .ok (some line) =>
    match line.assemble with
    | .ok w => .ok (some w)
    | .error e => .error e

/-- Assemble the lines of a text in order; each command is emitted as written (R81). -/
def assembleLines : List (List Char) → Except AsmError (List Word)
  | [] => .ok []
  | line :: rest =>
    match assembleLine line with
    | .error e => .error e
    | .ok word =>
      match assembleLines rest with
      | .error e => .error e
      | .ok ws => .ok (word.toList ++ ws)

end Sys2Proof.Machine
end

