-- ==== Sys2Proof/Machine/Observe.lean ====
section
/-! DEFINITION. What can be seen from outside: the response the host reads (R28, R176), the end of a command and the
observation of a run (R192), the chain outputs where they are specified (R189), and the platform calls the line
events stand for (R56, R57). Nothing here decides a step (R58). -/

namespace Sys2Proof.Machine

/-- A command has ended when `MODE ≠ BUSY` after its accepting step (R192). -/
def commandEnded (s : State) : Bool := decide (s.mode ≠ .busy)

/-- The response the host may read: none while BUSY, where `RESP` still holds the previous one and no claim may
read it (R28, R211; 93_implementation_defined.md item 15). -/
def hostResponse (s : State) : Option Byte := if commandEnded s then some s.resp else none

/-- What the host learns of `DIRTY` after a QUERY: it reads FCODE before Q (R150, R176). -/
def hostAnswer (s : State) : Option Bool := (hostResponse s).bind responseAnswer

/-- `Q` is specified from step `24N + 1` of the construction's transmission on (R189). That step is taken at
`upc = 24N + 5`. -/
def outputsSpecified (s : State) : Bool :=
  match s.mode with
  | .unconfigured => false
  | .idle => true
  | .busy =>
    match s.seqOp with
    | .construct => decide (24 * s.regCount + 6 ≤ s.upc)
    | _ => true

/-- The level of parallel output `i`, where it is specified (R180, R189). -/
def outputLevel (s : State) (i : Nat) : Option Level :=
  if outputsSpecified s ∧ i < s.outputCount then (s.outs[i]?).map levelOf else none

/-- Parallel bit `b` of register `k` is `Q[8k + b]` (R185). -/
def registerOutput (s : State) (k b : Nat) : Option Level := outputLevel s (8 * k + b)

/-- `BUF[0 .. N-1]` (R34). -/
def State.buffer (s : State) : List Byte := (List.range s.regCount).map s.buf.read

/-- The observation of a run (R192). -/
structure Observation where
  mode : Mode
  n : BitVec 16
  buffer : List Byte
  dirty : Bool
  lastFault : BitVec 4
  faultSeen : Bool
  responses : List Byte
  trace : List LineEvent
  outs : Option (List Bool)
  deriving DecidableEq, Repr

/-- The observation of the run that ended in `s` (R192). -/
def observe (s : State) : Observation :=
  { mode := s.mode
    n := s.n
    buffer := s.buffer
    dirty := s.dirty
    lastFault := s.lastFault
    faultSeen := s.faultSeen
    responses := s.responses
    trace := s.trace
    outs := if outputsSpecified s then some s.outs else none }

/-- A call of the platform's digital-I/O layer, which is given (R4). -/
inductive PlatformCall where
  | configurePinAsOutput (pin : Nat)
  | writeDigitalPin (pin : Nat) (level : Level)
  deriving DecidableEq, Repr

/-- The platform's identifier of a line (R8); its type is the model's choice (log entry 2). -/
def pinOf (c : Config) : Line → Nat
  | .sdata => c.serPin
  | .sclk => c.clkPin
  | .latch => c.latPin

/-- The one platform call an event stands for (R56, R57). -/
def platformCall (c : Config) : LineEvent → PlatformCall
  | .config l => .configurePinAsOutput (pinOf c l)
  | .write l lvl => .writeDigitalPin (pinOf c l) lvl

/-- The calls the platform has received since reset, in order (R58, R64). -/
def platformCalls (s : State) : List PlatformCall := s.trace.map (platformCall s.cfg)

/-- `k` steps of the machine, stopping at the first fault or refusal. -/
def runSteps : Nat → State → Answer
  | 0, s => .next s
  | k + 1, s =>
    match step s with
    | .next t => runSteps k t
    | .fault f => .fault f
    | .refused r => .refused r

/-- The line levels and the chain of a state, as a `Probe` (R188). -/
def State.probe (s : State) : Probe :=
  { sdata := s.lines.sdata.level.physical
    sclk := s.lines.sclk.level.physical
    latch := s.lines.latch.level.physical
    stages := s.stages
    outs := s.outs }

end Sys2Proof.Machine
end

