-- ==== Sys2Proof/Safety.lean ====
section
/-! DEFINITION. The terms the claims are stated in: the event list of a transmission as the spec's table and as the source's
loops (R131-R133), what makes a state one the block can be in (the invariant), what a fault does to a state (R160),
and the timing obligations of R212. -/

namespace Sys2Proof.Safety

open Sys2Proof.Machine

/-! ## The events of a transmission and of a construction -/

/-- The three writes of one bit (R131, steps `1 + 3j` to `3 + 3j`). -/
def bitEvents (bit : Bool) : List LineEvent :=
  [.write .sclk .low, .write .sdata (levelOf bit), .write .sclk .high]

/-- The line events of a transmission of `n` registers whose logical outputs are `out` (R131), the `j`-th bit
being `out(8n - 1 - j)` (R132). -/
def transmitEvents (n : Nat) (out : Nat → Bool) : List LineEvent :=
  .write .latch .low ::
    ((List.range (8 * n)).flatMap (fun j => bitEvents (out (8 * n - 1 - j))) ++ [.write .latch .high])

/-- `for b in 7 downto 0` of one register's byte (R133). -/
def registerEvents (x : Byte) : List LineEvent :=
  [7, 6, 5, 4, 3, 2, 1, 0].flatMap fun b => bitEvents (x.getLsbD b)

/-- `for k in n-1 downto 0` (R133). -/
def registersEvents (buf : Memory) : Nat → List LineEvent
  | 0 => []
  | k + 1 => registerEvents (buf.read k) ++ registersEvents buf k

/-- The transmission as nested loops, in the source's shape (R133). -/
def loopEvents (n : Nat) (buf : Memory) : List LineEvent :=
  .write .latch .low :: (registersEvents buf n ++ [.write .latch .high])

/-- The line events of a construction of `n` registers: the three configurations (R102), then the transmission of
the all-zero buffer (R104). -/
def constructEvents (n : Nat) : List LineEvent :=
  [.config .sdata, .config .sclk, .config .latch] ++ transmitEvents n (fun _ => false)

/-- The level of a line after a list of events, from the level before it: a write sets it. -/
def levelAfter (l : Line) (before : Level) (events : List LineEvent) : Level :=
  events.foldl (fun cur e => match e with
    | .write l' lvl => if l' = l then lvl else cur
    | .config _ => cur) before

/-- The rising transitions of a line in a list of events, from its level before (R143). -/
def risingCount (l : Line) : Level → List LineEvent → Nat
  | _, [] => 0
  | cur, .config _ :: es => risingCount l cur es
  | cur, .write l' lvl :: es =>
    if l' = l then (if cur = .low ∧ lvl = .high then 1 else 0) + risingCount l lvl es
    else risingCount l cur es

/-- The falling transitions of a line (R143). -/
def fallingCount (l : Line) : Level → List LineEvent → Nat
  | _, [] => 0
  | cur, .config _ :: es => fallingCount l cur es
  | cur, .write l' lvl :: es =>
    if l' = l then (if cur = .high ∧ lvl = .low then 1 else 0) + fallingCount l lvl es
    else fallingCount l cur es

/-- The writes of a line in a list of events. -/
def writesOf (l : Line) (events : List LineEvent) : List Level :=
  events.filterMap fun e => match e with
    | .write l' lvl => if l' = l then some lvl else none
    | .config _ => none

/-! ## What a fault does (R160) -/

/-- The state after a command that faulted with `code`: the fault record and the response `{000, 0, code}`, and
nothing else. -/
def recordFault (code : BitVec 4) (s : State) : State :=
  { s with
    lastFault := code
    faultSeen := true
    resp := 0#4 ++ code
    responses := s.responses ++ [0#4 ++ code] }

/-- The fault R167 says a word reports when it is presented in `s`: decode first, then the mode, then the operand's
range; none if the command succeeds. The codes are R161's. -/
def firstFault (s : State) (w : Word) : Option (BitVec 4) :=
  match decode w with
  | .illegal _ => some 0x3
  | .command (.construct n) =>
    if s.mode ≠ .unconfigured then some 0x5
    else if n = 0 ∨ s.cfg.maxRegs < n then some 0x1
    else none
  | .command (.setpin index _) =>
    if s.mode = .unconfigured then some 0x4
    else if 8 * s.regCount ≤ index then some 0x2
    else none
  | .command _ => if s.mode = .unconfigured then some 0x4 else none

/-- The commands R165 names. -/
def needsConstruction : Instr → Bool
  | .construct _ => false
  | _ => true

/-! ## The states the block can be in -/

/-- The transmit micro-step that is next, under TRANSMIT at `upc`, under CONSTRUCT at `upc - 4` (R27, R131). -/
def transmitAt (s : State) : Option Nat :=
  match s.seqOp with
  | .none => none
  | .transmit => some s.upc
  | .construct => if 4 ≤ s.upc then some (s.upc - 4) else none

/-- How many times SCLK has risen in a transmission of `n` registers whose next micro-step is `k` (R143). -/
def risesBefore (n k : Nat) : Nat := min ((k - 1) / 3) (8 * n)

/-- R22, R23, R25, R27, R34: MODE, N, SEQ_OP and upc agree, and before a construction nothing has happened to
`DIRTY` and `TRACE`. -/
def ModeOk (s : State) : Prop :=
  match s.mode with
  | .unconfigured =>
    s.regCount = 0 ∧ s.seqOp = .none ∧ s.upc = 0 ∧ s.dirty = false ∧ s.trace = []
  | .idle => 1 ≤ s.regCount ∧ s.regCount ≤ s.cfg.maxRegs ∧ s.seqOp = .none ∧ s.upc = 0
  | .busy =>
    1 ≤ s.regCount ∧ s.regCount ≤ s.cfg.maxRegs ∧
      ((s.seqOp = .transmit ∧ s.upc ≤ 24 * s.regCount + 2) ∨
        (s.seqOp = .construct ∧ s.upc ≤ 24 * s.regCount + 6))

/-- R50: the buffer is in canonical form and lies in its address space. -/
def BufferOk (s : State) : Prop := s.buf.wf = true ∧ s.buf.within s.cfg.maxRegs = true

/-- R26, R71, R161: the fault record names a code that can be raised, exactly when one has been; RZ3 is 0. -/
def RecordOk (s : State) : Prop :=
  s.faultSeen = decide (s.lastFault ≠ 0) ∧ s.lastFault.toNat ≤ 5 ∧ s.resp.extractLsb' 5 3 = 0

/-- R180, R191: the chain has `8N` stages and `8N` outputs. -/
def ChainOk (s : State) : Prop := s.stages.length = s.outputCount ∧ s.outs.length = s.outputCount

/-- All three lines are outputs (R30). -/
def AllOut (ls : Lines) : Prop := ls.sdata.cfg = .out ∧ ls.sclk.cfg = .out ∧ ls.latch.cfg = .out

/-- The line levels while transmit micro-step `k` is next (R131, R135, R136). -/
def TransmitLines (s : State) (k : Nat) : Prop :=
  (1 ≤ k → s.lines.latch.level = .known (if k ≤ 24 * s.regCount + 1 then .low else .high)) ∧
  (2 ≤ k → s.lines.sclk.level =
    .known (if (k - 1) % 3 = 0 ∨ 24 * s.regCount + 1 ≤ k then .high else .low)) ∧
  (3 ≤ k → s.lines.sdata.level =
    .known (levelOf (s.out (s.outputCount - 1 - min ((k - 3) / 3) (s.outputCount - 1)))))

/-- R29-R31, R100, R131: the lines in each mode. -/
def LinesOk (s : State) : Prop :=
  match s.mode with
  | .unconfigured => s.lines.sdata.cfg = .z ∧ s.lines.sclk.cfg = .z ∧ s.lines.latch.cfg = .z
  | .idle =>
    AllOut s.lines ∧ s.lines.latch.level = .known .high ∧ s.lines.sclk.level = .known .high ∧
      ∃ lvl, s.lines.sdata.level = .known lvl
  | .busy =>
    match transmitAt s with
    | none =>
      s.lines.sdata.cfg = (if 0 < s.upc then .out else .z) ∧
      s.lines.sclk.cfg = (if 1 < s.upc then .out else .z) ∧
      s.lines.latch.cfg = (if 2 < s.upc then .out else .z)
    | some k => AllOut s.lines ∧ TransmitLines s k

/-- R181, R182, R186: what has been shifted so far is the buffer's last outputs, in place; after the latch rise the
outputs are the stages. -/
def ShiftedOk (s : State) : Prop :=
  ∀ k, transmitAt s = some k →
    (∀ i < risesBefore s.regCount k,
      s.stages[i]? = some (s.out (s.outputCount - risesBefore s.regCount k + i))) ∧
    (24 * s.regCount + 2 ≤ k → s.outs = s.stages)

/-- R31, R186, R188: between transmissions the outputs are the stages, and while the buffer is clean they are the
logical outputs, and SDATA is at the last bit sent. -/
def SettledOk (s : State) : Prop :=
  s.mode = .idle →
    s.outs = s.stages ∧
      (s.dirty = false →
        s.lines.sdata.level = .known (levelOf (s.out 0)) ∧ ∀ i < s.outputCount, s.outs[i]? = some (s.out i))

/-- The invariant. -/
structure Inv (s : State) : Prop where
  config : configOk s.cfg = true
  modes : ModeOk s
  buffer : BufferOk s
  record : RecordOk s
  chain : ChainOk s
  lines : LinesOk s
  shifted : ShiftedOk s
  settled : SettledOk s

/-- The host makes no reset next. -/
def NoReset (s : State) : Prop := ∀ rest, s.host ≠ .reset :: rest

/-! ## Timing (R212): assumed of the platform, read by no rule of the model (log entry 16) -/

/-- The obligations of R212 for one transmission of `n` registers, `t k` being the time of micro-step `k`.
DESIGN CHOICE: times are natural numbers, as the parameters are (log entry 29); each difference of R212 is written
as a sum on the other side, so that no subtraction is cut off at 0. -/
structure LineTimingMet (p : Timing) (n : Nat) (t : Nat → Nat) : Prop where
  setup : ∀ j < 8 * n, t (2 + 3 * j) + p.tSu ≤ t (3 + 3 * j)
  hold : ∀ j, j + 1 < 8 * n → t (3 + 3 * j) + p.tH ≤ t (2 + 3 * (j + 1))
  clockHigh : ∀ j, j + 1 < 8 * n → t (3 + 3 * j) + p.tWh ≤ t (1 + 3 * (j + 1))
  clockLow : ∀ j < 8 * n, t (1 + 3 * j) + p.tWl ≤ t (3 + 3 * j)
  latch : t (24 * n) + p.tLat ≤ t (24 * n + 1)
  gap : ∀ k ≤ 24 * n, t k + p.gap ≤ t (k + 1)

end Sys2Proof.Safety
end

