-- ==== Sys2Proof/Certificates/Slice0/Obligations.lean ====
section
/-! DEFINITION. The statements for the provers. Each docstring names the rule of spec/ it formalises. -/

open Sys2Proof Sys2Proof.Machine Sys2Proof.Safety

/-! ## Encoding (30_encoding.md) -/

/-- The decode vectors of 95_test_vectors.md 2.1. -/
def Obligations.SpecWordsDecode : Prop :=
  decode 0x00000001#32 = .command (.construct 1) ∧
  decode 0x0000FFFF#32 = .command (.construct 65535) ∧
  decode 0x11000000#32 = .command (.setpin 0 true) ∧
  decode 0x1000FFFF#32 = .command (.setpin 65535 false) ∧
  decode 0x21000000#32 = .command (.setall true) ∧
  decode 0x20000000#32 = .command (.setall false) ∧
  decode 0x30000000#32 = .command .clear ∧
  decode 0x40000000#32 = .command .transmit ∧
  decode 0x50000000#32 = .command .query ∧
  ∀ w ∈ [0x01000001#32, 0x10010000#32, 0x12000000#32, 0x20000001#32, 0x31000000#32, 0x40000001#32,
      0x60000000#32, 0xF0000000#32, 0xFFFFFFFF#32],
    ∃ why, decode w = .illegal why

/-- R73: for every one of the `2^32` words and every row of the table, `(w & mask) = match` exactly when the word
decodes to that row's command; the rows are disjoint. -/
def Obligations.WordsSpellCommandsByMaskAndMatch : Prop :=
  (∀ (w : Word), ∀ r ∈ opcodeTable,
    w &&& r.mask = r.matchBits ↔ ∃ i, decode w = .command i ∧ i.mnemonic = r.mnemonic) ∧
  (∀ (w : Word), ∀ r ∈ opcodeTable, ∀ r' ∈ opcodeTable,
    w &&& r.mask = r.matchBits → w &&& r'.mask = r'.matchBits → r = r') ∧
  opcodeTable.map (fun r => (r.mnemonic, r.matchBits, r.mask)) =
    [("construct", 0x00000000, 0xFFFF0000), ("setpin", 0x10000000, 0xFEFF0000),
     ("setall", 0x20000000, 0xFEFFFFFF), ("clear", 0x30000000, 0xFFFFFFFF),
     ("transmit", 0x40000000, 0xFFFFFFFF), ("query", 0x50000000, 0xFFFFFFFF)]

/-- R77, R78: a reserved OP (`0x6 .. 0xF`), a nonzero RZ1 or RZ2, or a nonzero field that must be 0 makes the word
Illegal, and a ready block raises IllegalCommand on it. -/
def Obligations.ReservedAndMustBeZeroBitsAreIllegal : Prop :=
  ∀ w : Word,
    (6 ≤ (w.extractLsb' 28 4).toNat ∨ w.extractLsb' 25 3 ≠ 0 ∨ w.extractLsb' 16 8 ≠ 0 ∨
      ((w.extractLsb' 28 4).toNat ∈ [0, 3, 4, 5] ∧ w.getLsbD 24 = true) ∨
      ((w.extractLsb' 28 4).toNat ∈ [2, 3, 4, 5] ∧ w.extractLsb' 0 16 ≠ 0)) →
    (∃ why, decode w = .illegal why) ∧
    ∀ (s : State) (rest : List HostMove), s.mode ≠ .busy → s.host = .present w :: rest →
      step s = .next (recordFault 0x3 { s with host := rest })

/-- R75, R76: the operands of a decoded word are its ARG, zero-extended, and its bit V. -/
def Obligations.DecodedOperandsAreTheFields : Prop :=
  ∀ w : Word,
    (∀ n, decode w = .command (.construct n) → n = w.toNat % 2 ^ 16) ∧
    (∀ index v, decode w = .command (.setpin index v) → index = w.toNat % 2 ^ 16 ∧ v = w.getLsbD 24) ∧
    (∀ v, decode w = .command (.setall v) → v = w.getLsbD 24)

/-- Every well-formed command, at every value of its operands, decodes from its own word. -/
def Obligations.DecodeOfEncodeIsTheCommand : Prop :=
  ∀ i : Instr, i.WellFormed → decode (encode i) = .command i

/-- Every word that decodes to a command is that command's word: no word but one spells it. -/
def Obligations.EncodeOfDecodeIsTheWord : Prop :=
  ∀ (w : Word) (i : Instr), decode w = .command i → i.WellFormed ∧ encode i = w

/-- R80: the word of each line of the assembler's table, and which lines are refused. -/
def Obligations.AssemblerEmitsTheTablesWords : Prop :=
  (∀ n, n ≤ 0xFFFF → (AsmLine.command (.construct n)).assemble = .ok (0x00000000#32 ||| BitVec.ofNat 32 n)) ∧
  (∀ index v, index ≤ 0xFFFF → (AsmLine.command (.setpin index v)).assemble =
    .ok (0x10000000#32 ||| ((BitVec.ofBool v).zeroExtend 32 <<< 24) ||| BitVec.ofNat 32 index)) ∧
  (∀ v, (AsmLine.command (.setall v)).assemble = .ok (0x20000000#32 ||| ((BitVec.ofBool v).zeroExtend 32 <<< 24))) ∧
  (AsmLine.command .clear).assemble = .ok 0x30000000#32 ∧
  (AsmLine.command .transmit).assemble = .ok 0x40000000#32 ∧
  (AsmLine.command .query).assemble = .ok 0x50000000#32 ∧
  (∀ w, w < 2 ^ 32 → (AsmLine.word w).assemble = .ok (BitVec.ofNat 32 w)) ∧
  (∀ n, 0xFFFF < n → (AsmLine.command (.construct n)).assemble = .error .operandTooWide) ∧
  (∀ index v, 0xFFFF < index → (AsmLine.command (.setpin index v)).assemble = .error .operandTooWide) ∧
  (∀ w, 2 ^ 32 ≤ w → (AsmLine.word w).assemble = .error .operandTooWide)

/-! ## Reset and elaboration -/

/-- R38: the reset values the spec gives, for every choice of the parameters. The buffer and the chain, which the
spec leaves unspecified, are not named. -/
def Obligations.ResetLeavesTheSpecsValues : Prop :=
  State.reset = State.powerOn Config.reference ∧
  ∀ c : Config,
    let s := State.powerOn c
    s.mode = .unconfigured ∧ s.n = 0 ∧ s.dirty = false ∧ s.seqOp = .none ∧ s.upc = 0 ∧
      s.lastFault = 0 ∧ s.faultSeen = false ∧ s.resp = 0x00 ∧ s.trace = [] ∧
      ∀ l : Line, (s.lines.get l).cfg = .z ∧ ∃ d, (s.lines.get l).level = .unknown d

/-- R205: reset in any mode, also in the middle of a micro-sequence, abandons it and gives the state of R200. -/
def Obligations.ResetAbandonsAnySequence : Prop :=
  ∀ (s : State) (rest : List HostMove), s.host = .reset :: rest →
    ∃ t, step s = .next t ∧ t.mode = .unconfigured ∧ t.n = 0 ∧ t.dirty = false ∧ t.seqOp = .none ∧ t.upc = 0 ∧
      t.lastFault = 0 ∧ t.faultSeen = false ∧ t.resp = 0x00 ∧ t.trace = [] ∧
      ∀ l : Line, (t.lines.get l).cfg = .z ∧ ∃ d, (t.lines.get l).level = .unknown d

/-- The model's choice (log entries 1, 19): a reset keeps the parameters, the host's further moves and the count of
draws, which are not the block's state. -/
def Obligations.ResetKeepsTheParametersAndTheHost : Prop :=
  ∀ (s t : State) (rest : List HostMove), s.host = .reset :: rest → step s = .next t →
    t.cfg = s.cfg ∧ t.host = rest ∧ t.draws = s.draws

/-- R5, R8: a configuration is refused at elaboration exactly when `MAX_REGS` is out of `1 .. 8191` (the model's choice,
log entry 28) or two of the pin identifiers are equal; the reference value of `MAX_REGS` is 25. -/
def Obligations.ElaborationRefusesIllegalParameters : Prop :=
  State.reset.cfg.maxRegs = 25 ∧ ∀ c : Config,
    (1 ≤ c.maxRegs ∧ c.maxRegs ≤ 8191 ∧
        c.serPin ≠ c.clkPin ∧ c.serPin ≠ c.latPin ∧ c.clkPin ≠ c.latPin →
      elaborate c = .next (State.powerOn c) ∧ (State.powerOn c).cfg = c) ∧
    (c.maxRegs = 0 ∨ 8191 < c.maxRegs ∨ c.serPin = c.clkPin ∨ c.serPin = c.latPin ∨ c.clkPin = c.latPin →
      elaborate c = .refused .badConfiguration)

/-! ## The step -/

/-- When the block is ready and the host's next move presents a word that decodes to a command, the step is that
command's execution with the move taken off the host's list (the list is the model's form of the host, log entry 10). -/
def Obligations.StepRunsTheDecodedCommand : Prop :=
  ∀ (s : State) (w : Word) (rest : List HostMove) (i : Instr),
    s.mode ≠ .busy → s.host = .present w :: rest → decode w = .command i →
      step s = exec i { s with host := rest }

/-- R177: without a command the ready block holds its state; only a wait of the host passes (log entries 10, 25). -/
def Obligations.ReadyBlockHoldsItsState : Prop :=
  ∀ s : State, s.mode ≠ .busy →
    (s.host = [] → step s = .next s) ∧
    (∀ rest, s.host = .wait :: rest → step s = .next { s with host := rest })

/-- R83, R211: while BUSY the block accepts nothing: the step is the one it would take were the host to make no move.
That a word the host wants to present is still to be presented after it is the model's choice (log entry 11, on the
host's list of log entry 10). -/
def Obligations.BusyBlockAcceptsNoCommand : Prop :=
  ∀ (s : State) (w : Word) (rest : List HostMove), s.mode = .busy →
    (∀ t, step { s with host := [] } = .next t →
      step { s with host := .present w :: rest } = .next { t with host := .present w :: rest }) ∧
    (∀ f, step { s with host := [] } = .fault f → step { s with host := .present w :: rest } = .fault f) ∧
    (∀ r, step { s with host := [] } ≠ .refused r)

/-- A command run while BUSY, which no step does, stops the machine (93_implementation_defined.md item 14, "stuck"; that
`exec` stops by this name is the model's form of it, log entry 11). -/
def Obligations.CommandWhileBusyIsStuck : Prop :=
  ∀ (i : Instr) (s : State), s.mode = .busy → exec i s = .fault .commandWhileBusy

/-! ## Faults (60_exceptions.md) -/

/-- R164: an Illegal word raises IllegalCommand in any mode except BUSY, and records only the code. In BUSY the word
is not accepted and the fault record is untouched; that the word then stays in the host's list is the model's choice
(log entry 11). -/
def Obligations.IllegalWordRaisesIllegalCommand : Prop :=
  ∀ (s : State) (w : Word) (why : IllegalWhy) (rest : List HostMove),
    decode w = .illegal why → s.host = .present w :: rest →
      (s.mode ≠ .busy → step s = .next (recordFault 0x3 { s with host := rest })) ∧
      (∀ t, s.mode = .busy → step s = .next t →
        t.host = s.host ∧ t.lastFault = s.lastFault ∧ t.faultSeen = s.faultSeen)

/-- R165: SETPIN, SETALL, CLEAR, TRANSMIT and QUERY before construction. -/
def Obligations.UnconstructedBlockRaisesNotConstructed : Prop :=
  ∀ (i : Instr) (s : State), needsConstruction i = true → s.mode = .unconfigured →
    exec i s = .next (recordFault 0x4 s)

/-- R166: CONSTRUCT on a constructed block. While BUSY the word is not accepted (R83, R176, R211), and no `N` is written;
that the word then stays in the host's list is the model's choice (log entry 11). -/
def Obligations.SecondConstructRaisesAlreadyConstructed : Prop :=
  (∀ (n : Nat) (s : State), s.mode = .idle →
    exec (.construct n) s = .next (recordFault 0x5 s) ∧ (recordFault 0x5 s).n = s.n) ∧
  (∀ (n : Nat) (s t : State) (w : Word) (rest : List HostMove), decode w = .command (.construct n) →
    s.host = .present w :: rest → s.mode = .busy → step s = .next t → t.host = s.host ∧ t.n = s.n)

/-- R162, R106: CONSTRUCT with `n = 0` or `n > MAX_REGS` has no effect but the fault record; the block stays
UNCONFIGURED and accepts a new CONSTRUCT. -/
def Obligations.IllegalCountRaisesConfigurationError : Prop :=
  ∀ (n : Nat) (s : State), s.mode = .unconfigured → (n = 0 ∨ s.cfg.maxRegs < n) →
    exec (.construct n) s = .next (recordFault 0x1 s) ∧
    (recordFault 0x1 s).mode = .unconfigured ∧ (recordFault 0x1 s).n = s.n ∧
    ∀ m, 1 ≤ m → m ≤ s.cfg.maxRegs →
      ∃ t, exec (.construct m) (recordFault 0x1 s) = .next t ∧ t.mode = .busy ∧ t.seqOp = .construct

/-- R163: SETPIN with `index ≥ 8·N`: nothing but the fault record, and the block stays usable. SETALL and CLEAR never
answer this fault. -/
def Obligations.IndexPastTheChainRaisesIndexOutOfRange : Prop :=
  (∀ (index : Nat) (value : Bool) (s : State), s.mode = .idle → 8 * s.regCount ≤ index →
    exec (.setpin index value) s = .next (recordFault 0x2 s) ∧ (recordFault 0x2 s).mode = .idle) ∧
  (∀ (i : Instr) (s t : State), ((∃ value, i = .setall value) ∨ i = .clear) → exec i s = .next t →
    t.resp ≠ 0x02)

/-- R167: a word presented to a ready block reports the first fault of the order decode, mode, range, and has no other
effect; where none applies it reports none. -/
def Obligations.FirstApplicableFaultIsReported : Prop :=
  ∀ (s : State) (w : Word) (rest : List HostMove), Inv s → s.mode ≠ .busy → s.host = .present w :: rest →
    match firstFault s w with
    | some code => step s = .next (recordFault code { s with host := rest })
    | none => ∃ t, step s = .next t ∧ t.lastFault = s.lastFault ∧ t.faultSeen = s.faultSeen

/-- R26: a step either leaves the fault record, or is a reset and clears it, or is a faulting command: exactly the record
and the response, with one of the codes 1 to 5. The reset values are 0. -/
def Obligations.OnlyAFaultingCommandWritesTheFaultRecord : Prop :=
  (State.reset.lastFault = 0 ∧ State.reset.faultSeen = false) ∧
  ∀ s t : State, step s = .next t →
    (t.lastFault = s.lastFault ∧ t.faultSeen = s.faultSeen) ∨
    ((∃ rest, s.host = .reset :: rest) ∧ t.lastFault = 0 ∧ t.faultSeen = false) ∨
    (∃ w rest code, s.mode ≠ .busy ∧ s.host = .present w :: rest ∧ 1 ≤ code.toNat ∧ code.toNat ≤ 5 ∧
      t = recordFault code { s with host := rest })

/-! ## Buffer commands and QUERY (41_buffer.md, 43_query.md) -/

/-- R110: SETPIN on every operand and in each mode a command can meet. On success only logical output `index` changes,
`DIRTY` is set whether or not the bit changed, and nothing else is written; every other byte reads as before. -/
def Obligations.SetpinWritesOneLogicalOutput : Prop :=
  ∀ (index : Nat) (value : Bool) (s : State), BufferOk s → s.regCount ≤ s.cfg.maxRegs →
    (s.mode = .unconfigured → exec (.setpin index value) s = .next (recordFault 0x4 s)) ∧
    (s.mode = .idle → 8 * s.regCount ≤ index → exec (.setpin index value) s = .next (recordFault 0x2 s)) ∧
    (s.mode = .idle → index < 8 * s.regCount →
      ∃ m, exec (.setpin index value) s =
          .next { s with buf := m, dirty := true, resp := 0x00, responses := s.responses ++ [0x00] } ∧
        (m.read (index / 8)).getLsbD (index % 8) = value ∧
        (∀ b < 8, b ≠ index % 8 → (m.read (index / 8)).getLsbD b = (s.buf.read (index / 8)).getLsbD b) ∧
        (∀ a, a ≠ index / 8 → m.read a = s.buf.read a))

/-- R112, R113: SETALL. -/
def Obligations.SetallFillsTheBuffer : Prop :=
  ∀ (value : Bool) (s : State), BufferOk s → s.regCount ≤ s.cfg.maxRegs →
    (s.mode = .unconfigured → exec (.setall value) s = .next (recordFault 0x4 s)) ∧
    (s.mode = .idle →
      ∃ m, exec (.setall value) s =
          .next { s with buf := m, dirty := true, resp := 0x00, responses := s.responses ++ [0x00] } ∧
        (∀ a < s.regCount, m.read a = if value then 0xFF else 0x00) ∧
        (∀ a, s.regCount ≤ a → m.read a = s.buf.read a))

/-- R114: CLEAR. -/
def Obligations.ClearZeroesTheBuffer : Prop :=
  ∀ s : State, BufferOk s → s.regCount ≤ s.cfg.maxRegs →
    (s.mode = .unconfigured → exec .clear s = .next (recordFault 0x4 s)) ∧
    (s.mode = .idle →
      ∃ m, exec .clear s =
          .next { s with buf := m, dirty := true, resp := 0x00, responses := s.responses ++ [0x00] } ∧
        (∀ a < s.regCount, m.read a = 0x00) ∧
        (∀ a, s.regCount ≤ a → m.read a = s.buf.read a))

/-- R115: CLEAR and SETALL 0 have the same effect, response and faults; only their encodings differ. -/
def Obligations.ClearIsSetallFalse : Prop :=
  (∀ s : State, exec .clear s = exec (.setall false) s) ∧ encode .clear ≠ encode (.setall false)

/-- R116: SETPIN, SETALL and CLEAR, in every case, touch no line and nothing of the chain, and append no event. -/
def Obligations.BufferCommandsIssueNoLineEvent : Prop :=
  ∀ (i : Instr) (s t : State), ((∃ index v, i = .setpin index v) ∨ (∃ v, i = .setall v) ∨ i = .clear) →
    exec i s = .next t →
      t.lines = s.lines ∧ t.stages = s.stages ∧ t.outs = s.outs ∧ t.trace = s.trace

/-- R110, corner cases: SETPINs to different indices commute, and of two to the same index the later wins. -/
def Obligations.SetpinsCommuteOrTheLaterWins : Prop :=
  ∀ (i j : Nat) (v w : Bool) (s : State), BufferOk s → s.mode = .idle → s.regCount ≤ s.cfg.maxRegs →
    i < 8 * s.regCount → j < 8 * s.regCount →
      ∃ t₁ t₂ u₁ u₂, exec (.setpin i v) s = .next t₁ ∧ exec (.setpin j w) t₁ = .next t₂ ∧
        exec (.setpin j w) s = .next u₁ ∧ exec (.setpin i v) u₁ = .next u₂ ∧
        (i ≠ j → t₂ = u₂) ∧ (i = j → t₂.buf = u₁.buf ∧ u₂.buf = t₁.buf)

/-- R150: QUERY answers `DIRTY` in bit 4 and writes nothing but the response. -/
def Obligations.QueryReportsTheDirtyFlag : Prop :=
  ∀ s : State,
    (s.mode = .unconfigured → exec .query s = .next (recordFault 0x4 s)) ∧
    (s.mode = .idle → s.dirty = true →
      exec .query s = .next { s with resp := 0x10, responses := s.responses ++ [0x10] }) ∧
    (s.mode = .idle → s.dirty = false →
      exec .query s = .next { s with resp := 0x00, responses := s.responses ++ [0x00] })

/-- R151: what the host learns from a QUERY after each command on a constructed block. A successful CONSTRUCT or
TRANSMIT ends with the micro-step that returns the block to IDLE. -/
def Obligations.QueryAnswersAfterEachCommand : Prop :=
  (∀ (i : Instr) (s t u : State), s.mode = .idle → exec i s = .next t → exec .query t = .next u →
    (((∃ index v, i = .setpin index v) ∨ (∃ v, i = .setall v) ∨ i = .clear) → t.resp = 0x00 →
      hostAnswer u = some true) ∧
    (responseCode t.resp ≠ 0 → hostAnswer u = some s.dirty)) ∧
  (∀ s t u : State, NoReset s → s.mode = .busy → step s = .next t → t.mode = .idle →
    exec .query t = .next u → hostAnswer u = some false)

/-! ## Lines and chain (20_memory.md, 60_exceptions.md) -/

/-- R56: `PinConfigure(l)`, the platform call it stands for, and what it leaves. R184: at SCLK the stages take any value
and the outputs stay, at LATCH the outputs take any value and the stages stay; at SDATA both stay (R183). Any value
is a draw `freeBits d`, of which nothing is known. -/
def Obligations.PinConfigureIsOneEvent : Prop :=
  ∀ (l : Line) (s : State), ∃ lvl,
    (pinConfigure l s).lines.get l = { cfg := .out, level := .unknown lvl } ∧
    (pinConfigure l s).trace = s.trace ++ [.config l] ∧
    platformCalls (pinConfigure l s) = platformCalls s ++ [.configurePinAsOutput
      (match l with | .sdata => s.cfg.serPin | .sclk => s.cfg.clkPin | .latch => s.cfg.latPin)] ∧
    (∀ l', l' ≠ l → (pinConfigure l s).lines.get l' = s.lines.get l') ∧
    (l = .sdata → (pinConfigure l s).stages = s.stages ∧ (pinConfigure l s).outs = s.outs) ∧
    (l = .sclk → (∃ d, (pinConfigure l s).stages = freeBits d s.regCount) ∧ (pinConfigure l s).outs = s.outs) ∧
    (l = .latch → (∃ d, (pinConfigure l s).outs = freeBits d s.regCount) ∧ (pinConfigure l s).stages = s.stages) ∧
    pinConfigure l s =
      { s with
        lines := (pinConfigure l s).lines
        trace := (pinConfigure l s).trace
        stages := (pinConfigure l s).stages
        outs := (pinConfigure l s).outs
        draws := (pinConfigure l s).draws }

/-- R57: `PinWrite(l, lvl)`, the platform call it stands for, and what it leaves; a write of the level a line already has
is an event too, but no transition. -/
def Obligations.PinWriteIsOneEvent : Prop :=
  ∀ (l : Line) (lvl : Level) (s : State),
    (pinWrite l lvl s).lines.get l = { cfg := (s.lines.get l).cfg, level := .known lvl } ∧
    (pinWrite l lvl s).trace = s.trace ++ [.write l lvl] ∧
    platformCalls (pinWrite l lvl s) = platformCalls s ++ [.writeDigitalPin
      (match l with | .sdata => s.cfg.serPin | .sclk => s.cfg.clkPin | .latch => s.cfg.latPin) lvl] ∧
    ((s.lines.get l).level = .known lvl →
      (pinWrite l lvl s).stages = s.stages ∧ (pinWrite l lvl s).outs = s.outs) ∧
    (∀ l', l' ≠ l → (pinWrite l lvl s).lines.get l' = s.lines.get l') ∧
    pinWrite l lvl s =
      { s with
        lines := (pinWrite l lvl s).lines
        trace := (pinWrite l lvl s).trace
        stages := (pinWrite l lvl s).stages
        outs := (pinWrite l lvl s).outs
        draws := (pinWrite l lvl s).draws }

/-- R181: a rising transition of SCLK shifts the chain by one stage; where `SDATA` is UNKNOWN nothing is said of
`S[0]`. -/
def Obligations.ClockRiseShiftsTheChain : Prop :=
  ∀ s : State, s.lines.sclk.level.physical = .low → s.stages.length = 8 * s.regCount →
    (pinWrite .sclk .high s).outs = s.outs ∧
    (pinWrite .sclk .high s).stages.length = 8 * s.regCount ∧
    (∀ i, 1 ≤ i → i < 8 * s.regCount → (pinWrite .sclk .high s).stages[i]? = s.stages[i - 1]?) ∧
    (∀ lvl, s.lines.sdata.level = .known lvl → 1 ≤ s.regCount →
      (pinWrite .sclk .high s).stages[0]? = some (decide (lvl = .high)))

/-- R182: a rising transition of LATCH copies every stage to its output. -/
def Obligations.LatchRiseCopiesTheStages : Prop :=
  ∀ s : State, s.lines.latch.level.physical = .low →
    (pinWrite .latch .high s).outs = s.stages ∧ (pinWrite .latch .high s).stages = s.stages

/-- R183: any other line event leaves stages and outputs. -/
def Obligations.OtherLineEventsLeaveTheChain : Prop :=
  ∀ s : State,
    (∀ l, (pinWrite l .low s).stages = s.stages ∧ (pinWrite l .low s).outs = s.outs) ∧
    (∀ l lvl, (s.lines.get l).level.physical = lvl →
      (pinWrite l lvl s).stages = s.stages ∧ (pinWrite l lvl s).outs = s.outs) ∧
    (∀ lvl, (pinWrite .sdata lvl s).stages = s.stages ∧ (pinWrite .sdata lvl s).outs = s.outs) ∧
    ((pinConfigure .sdata s).stages = s.stages ∧ (pinConfigure .sdata s).outs = s.outs)

/-- R182, R188: the machine's own chain is the rising reading of the latch. -/
def Obligations.MachineFollowsTheRisingReading : Prop :=
  ∀ (s : State) (l : Line) (lvl d : Level), s.lines.sdata.level = .known d →
    (pinWrite l lvl s).probe = Probe.event .rising s.probe (.write l lvl)

/-- R188: the three readings of the latch give the same outputs, at every point of a transmission that starts with the
outputs equal to the stages and LATCH HIGH, and at the end of every transmission. -/
def Obligations.LatchReadingsGiveTheSameOutputs : Prop :=
  ∀ (r : LatchReading) (n : Nat) (out : Nat → Bool) (p : Probe),
    (p.outs = p.stages → p.latch = .high → ∀ k,
      (p.replay r ((transmitEvents n out).take k)).outs =
        (p.replay .rising ((transmitEvents n out).take k)).outs) ∧
    (p.replay r (transmitEvents n out)).outs = (p.replay .rising (transmitEvents n out)).outs

/-! ## The event list of a transmission (42_transmit.md) -/

/-- R133: the nested loops give the same events in the same order as the table. -/
def Obligations.LoopsAndTableGiveTheSameEvents : Prop :=
  ∀ (n : Nat) (s : State), loopEvents n s.buf = transmitEvents n s.out

/-- R132: the bits sent, in order: register `N-1-(j/8)`, bit `7-(j%8)`, which is logical output `8N-1-j`. -/
def Obligations.BitsAreSentInReverseIndexOrder : Prop :=
  ∀ (n : Nat) (s : State),
    writesOf .sdata (transmitEvents n s.out) =
      (List.range (8 * n)).map (fun j => levelOf ((s.buf.read (n - 1 - j / 8)).getLsbD (7 - j % 8))) ∧
    ∀ j < 8 * n, (s.buf.read (n - 1 - j / 8)).getLsbD (7 - j % 8) = s.out (8 * n - 1 - j)

/-- R140: the writes of one transmission, line by line. -/
def Obligations.TransmissionEventCounts : Prop :=
  ∀ (n : Nat) (out : Nat → Bool),
    (transmitEvents n out).length = 24 * n + 2 ∧
    writesOf .latch (transmitEvents n out) = [.low, .high] ∧
    writesOf .sclk (transmitEvents n out) = (List.range (8 * n)).flatMap (fun _ => [.low, .high]) ∧
    writesOf .sdata (transmitEvents n out) = (List.range (8 * n)).map (fun j => levelOf (out (8 * n - 1 - j))) ∧
    (writesOf .sclk (transmitEvents n out)).length = 16 * n ∧
    (writesOf .sdata (transmitEvents n out)).length = 8 * n

/-- R143: the transitions of one transmission, from any levels before it. -/
def Obligations.TransmissionTransitionCounts : Prop :=
  ∀ (n : Nat) (out : Nat → Bool) (clk lat : Level), 1 ≤ n →
    risingCount .sclk clk (transmitEvents n out) = 8 * n ∧
    risingCount .latch lat (transmitEvents n out) = 1 ∧
    fallingCount .sclk clk (transmitEvents n out) = (8 * n - 1) + (if clk = .high then 1 else 0) ∧
    fallingCount .latch lat (transmitEvents n out) = (if lat = .high then 1 else 0)

/-! ## CONSTRUCT and TRANSMIT, step by step -/

/-- R100, accepting step: a legal CONSTRUCT takes `n`, starts its sequence and touches no line, no buffer byte and no
flag. That the chain's `8n` positions come into the state here is the model's choice (log entry 6). -/
def Obligations.ConstructIsAccepted : Prop :=
  ∀ (n : Nat) (s : State), configOk s.cfg = true → s.mode = .unconfigured → 1 ≤ n → n ≤ s.cfg.maxRegs →
    ∃ t, exec (.construct n) s = .next t ∧ t.regCount = n ∧
      t.stages.length = 8 * n ∧ t.outs.length = 8 * n ∧
      t = { s with
        n := t.n, mode := .busy, seqOp := .construct, upc := 0,
        stages := t.stages, outs := t.outs, draws := t.draws }

/-- R130, accepting step of TRANSMIT; `DIRTY` is not tested. -/
def Obligations.TransmitIsAccepted : Prop :=
  ∀ s : State,
    (s.mode = .unconfigured → exec .transmit s = .next (recordFault 0x4 s)) ∧
    (s.mode = .idle → exec .transmit s = .next { s with mode := .busy, seqOp := .transmit, upc := 0 })

/-- R131: each micro-step of a transmission is its row of the table, at `upc = k` under TRANSMIT and `upc = 4 + k` under
CONSTRUCT. Nothing is said of what becomes of the host's list. -/
def Obligations.MicroStepsFollowTheTable : Prop :=
  ∀ (s : State) (k : Nat), NoReset s → s.mode = .busy → s.regCount ≤ s.cfg.maxRegs →
    (s.seqOp = .transmit ∧ s.upc = k ∨ s.seqOp = .construct ∧ s.upc = 4 + k) →
    let u : State := { s with upc := s.upc + 1 }
    (k = 0 → ∃ h, step s = .next { pinWrite .latch .low u with host := h }) ∧
    (∀ j < 8 * s.regCount, k = 1 + 3 * j → ∃ h, step s = .next { pinWrite .sclk .low u with host := h }) ∧
    (∀ j < 8 * s.regCount, k = 2 + 3 * j → ∃ h, step s =
      .next { pinWrite .sdata (levelOf (s.out (8 * s.regCount - 1 - j))) u with host := h }) ∧
    (∀ j < 8 * s.regCount, k = 3 + 3 * j → ∃ h, step s = .next { pinWrite .sclk .high u with host := h }) ∧
    (k = 24 * s.regCount + 1 → ∃ h, step s = .next { pinWrite .latch .high u with host := h }) ∧
    (k = 24 * s.regCount + 2 → ∃ h, step s = .next
      { s with
        dirty := false, resp := 0x00, responses := s.responses ++ [0x00], upc := 0, seqOp := .none,
        mode := .idle, host := h })

/-- R100, R102, R103: the construction's first four micro-steps. -/
def Obligations.ConstructPrefixConfiguresAndZeroes : Prop :=
  ∀ s : State, NoReset s → s.mode = .busy → s.seqOp = .construct → BufferOk s → s.regCount ≤ s.cfg.maxRegs →
    let u : State := { s with upc := s.upc + 1 }
    (s.upc = 0 → ∃ h, step s = .next { pinConfigure .sdata u with host := h }) ∧
    (s.upc = 1 → ∃ h, step s = .next { pinConfigure .sclk u with host := h }) ∧
    (s.upc = 2 → ∃ h, step s = .next { pinConfigure .latch u with host := h }) ∧
    (s.upc = 3 → ∃ h m, step s = .next { u with buf := m, dirty := true, host := h } ∧
      (∀ a < s.regCount, m.read a = 0x00) ∧ (∀ a, s.regCount ≤ a → m.read a = s.buf.read a))

/-- R211, R217: from the accepting step on the block is BUSY, with no response to read, until the `24N + 3` micro-steps of
a TRANSMIT or the `24N + 7` of a CONSTRUCT are done. -/
def Obligations.BusyLastsExactlyTheMicroSteps : Prop :=
  ∀ s : State, Inv s → s.mode = .busy → s.upc = 0 → s.host = [] →
    ∃ last, (s.seqOp = .transmit → last = 24 * s.regCount + 3) ∧
      (s.seqOp = .construct → last = 24 * s.regCount + 7) ∧
      (∀ k < last, ∃ t, runSteps k s = .next t ∧ t.mode = .busy ∧ t.upc = k ∧ hostResponse t = none) ∧
      ∃ t, runSteps last s = .next t ∧ t.mode = .idle ∧ hostResponse t = some 0x00

/-! ## CONSTRUCT and TRANSMIT, whole -/

/-- R105, R107: a successful CONSTRUCT(n), from the accepting step to the last micro-step. -/
def Obligations.ConstructEndsInTheKnownLowState : Prop :=
  ∀ (n : Nat) (s : State), Inv s → s.mode = .unconfigured → 1 ≤ n → n ≤ s.cfg.maxRegs →
    s.host = [.present (encode (.construct n))] →
    ∃ t, runSteps (1 + (24 * n + 7)) s = .next t ∧
      t.mode = .idle ∧ t.regCount = n ∧ (∀ a < n, t.buf.read a = 0x00) ∧
      (∀ a, n ≤ a → t.buf.read a = s.buf.read a) ∧ t.dirty = false ∧ t.seqOp = .none ∧ t.upc = 0 ∧
      t.resp = 0x00 ∧ t.responses = s.responses ++ [0x00] ∧ t.lastFault = s.lastFault ∧ t.faultSeen = s.faultSeen ∧
      t.lines.sdata = { cfg := .out, level := .known .low } ∧
      t.lines.sclk = { cfg := .out, level := .known .high } ∧
      t.lines.latch = { cfg := .out, level := .known .high } ∧
      t.stages = List.replicate (8 * n) false ∧ t.outs = List.replicate (8 * n) false ∧
      t.trace = s.trace ++ constructEvents n ∧ (constructEvents n).length = 24 * n + 5 ∧
      t.cfg = s.cfg ∧ t.host = []

/-- R138, R141, R142: a TRANSMIT, from the accepting step to the last micro-step, whatever `DIRTY` was. -/
def Obligations.TransmitSendsTheWholeBuffer : Prop :=
  ∀ s : State, Inv s → s.mode = .idle → s.host = [.present 0x40000000#32] →
    ∃ t, runSteps (1 + (24 * s.regCount + 3)) s = .next t ∧
      t.trace = s.trace ++ transmitEvents s.regCount s.out ∧
      t.lines.sdata = { cfg := .out, level := .known (levelOf ((s.buf.read 0).getLsbD 0)) } ∧
      t.lines.sclk = { cfg := .out, level := .known .high } ∧
      t.lines.latch = { cfg := .out, level := .known .high } ∧
      t = { s with
        dirty := false, resp := 0x00, responses := s.responses ++ [0x00], lines := t.lines, trace := t.trace,
        stages := t.stages, outs := t.outs, draws := t.draws, host := [] }

/-- R186: after every complete transmission, of a TRANSMIT or of a construction (`transmitAt s = some 0`: step 0 is next),
`S[i] = Q[i] = out(i)` for every `i < 8N`, whatever the chain held. -/
def Obligations.OutputsEqualTheBufferAfterTransmission : Prop :=
  ∀ s : State, Inv s → s.mode = .busy → transmitAt s = some 0 → s.host = [] →
    ∃ t, runSteps (24 * s.regCount + 3) s = .next t ∧ t.mode = .idle ∧
      t.stages.length = 8 * s.regCount ∧ t.outs.length = 8 * s.regCount ∧
      ∀ i < 8 * s.regCount,
        t.stages[i]? = some ((s.buf.read (i / 8)).getLsbD (i % 8)) ∧
        t.outs[i]? = some ((s.buf.read (i / 8)).getLsbD (i % 8))

/-- R139: two TRANSMITs with nothing between them but QUERYs and faulting commands append the same list of events and
leave the same lines, chain, buffer and count. That the words wait in the host's list while the block is BUSY is the
model's choice (log entry 11). -/
def Obligations.TransmitIsIdempotent : Prop :=
  ∀ (s : State) (between : List Word), Inv s → s.mode = .idle →
    (∀ w ∈ between, w = 0x50000000#32 ∨ (firstFault s w).isSome = true) →
    s.host = .present 0x40000000#32 :: (between.map .present ++ [.present 0x40000000#32]) →
    ∃ t u, runSteps (1 + (24 * s.regCount + 3)) s = .next t ∧
      runSteps (between.length + (1 + (24 * s.regCount + 3))) t = .next u ∧
      t.trace = s.trace ++ transmitEvents s.regCount s.out ∧
      u.trace = t.trace ++ transmitEvents s.regCount s.out ∧
      u.lines = t.lines ∧ u.stages = t.stages ∧ u.outs = t.outs ∧ u.buf = t.buf ∧ u.n = t.n ∧
      u.mode = t.mode ∧ u.seqOp = t.seqOp ∧ u.upc = t.upc ∧ u.resp = t.resp ∧ u.cfg = t.cfg ∧
      t.dirty = false ∧ u.dirty = false

/-- R117: read-back through the chain of SETPIN, SETALL and CLEAR followed by TRANSMIT. -/
def Obligations.TransmittedBitsReadBackAtTheOutputs : Prop :=
  ∀ (s : State), Inv s → s.mode = .idle →
    (∀ index v, index < 8 * s.regCount →
      s.host = [.present (encode (.setpin index v)), .present 0x40000000#32] →
      ∃ t, runSteps (2 + (24 * s.regCount + 3)) s = .next t ∧ outputLevel t index = some (levelOf v)) ∧
    (∀ v, (s.host = [.present (encode (.setall v)), .present 0x40000000#32] ∨
        v = false ∧ s.host = [.present 0x30000000#32, .present 0x40000000#32]) →
      ∃ t, runSteps (2 + (24 * s.regCount + 3)) s = .next t ∧
        ∀ i < 8 * s.regCount, outputLevel t i = some (levelOf v))

/-! ## Whole-machine rules -/

/-- The state after reset, for every configuration that is not refused, meets the invariant. -/
def Obligations.ResetMeetsTheInvariant : Prop :=
  Inv State.reset ∧ ∀ c s, elaborate c = .next s → Inv s

/-- Every step keeps the invariant: MODE, N, SEQ_OP and upc agree; the buffer keeps its canonical form; the fault
record is a raisable code; the chain is `8N` long; the lines hold the levels of R29-R31 and R131; what is shifted is
the buffer's; while IDLE and clean the outputs are the logical outputs. -/
def Obligations.StepKeepsTheInvariant : Prop :=
  ∀ s t : State, Inv s → step s = .next t → Inv t

/-- R145: from a state the block can be in, a step always answers a next state: nothing can fault or stop it. -/
def Obligations.StepNeverStops : Prop :=
  ∀ s : State, Inv s → ∃ t, step s = .next t

/-- R30: only reset returns a line to Z; and only reset clears FAULT_SEEN (R200). -/
def Obligations.OnlyResetReleasesALine : Prop :=
  ∀ s t : State, NoReset s → step s = .next t →
    (∀ l : Line, (s.lines.get l).cfg = .out → (t.lines.get l).cfg = .out) ∧
    (s.faultSeen = true → t.faultSeen = true)

/-- R34: on a constructed block `1 ≤ N ≤ MAX_REGS`, and `N` does not change until reset. -/
def Obligations.RegisterCountIsImmutable : Prop :=
  ∀ s t : State, Inv s → s.mode ≠ .unconfigured → NoReset s → step s = .next t →
    1 ≤ s.regCount ∧ s.regCount ≤ s.cfg.maxRegs ∧ t.n = s.n ∧ t.mode ≠ .unconfigured ∧ t.cfg = s.cfg

/-- R35: no step writes a byte of the buffer at or above `N`, and none reads one: two states that differ only there
step to states that differ only there. -/
def Obligations.BytesBeyondTheChainAreOutOfReach : Prop :=
  ∀ (s t : State) (m : Memory), NoReset s → s.buf.wf = true → m.wf = true →
    (∀ a < s.regCount, m.read a = s.buf.read a) → step s = .next t →
    (∀ a, s.regCount ≤ a → t.buf.read a = s.buf.read a) ∧
    ∃ m', step { s with buf := m } = .next { t with buf := m' } ∧
      (∀ a < s.regCount, m'.read a = t.buf.read a) ∧ (∀ a, s.regCount ≤ a → m'.read a = m.read a)

/-- R24: `DIRTY` is set by a successful SETPIN, SETALL or CLEAR and by the zeroing step of a construction, cleared by the
last micro-step of a transmission, and left by every other step that is no reset. -/
def Obligations.DirtyIsSetByMutationAndClearedByTransmission : Prop :=
  ∀ s t : State, NoReset s → step s = .next t →
    t.dirty = s.dirty ∨
    (t.dirty = true ∧ ((s.mode = .busy ∧ s.seqOp = .construct ∧ s.upc = 3) ∨
      ∃ w rest i, s.mode = .idle ∧ s.host = .present w :: rest ∧ decode w = .command i ∧ t.resp = 0x00 ∧
        ((∃ index v, i = .setpin index v) ∨ (∃ v, i = .setall v) ∨ i = .clear))) ∨
    (t.dirty = false ∧ s.mode = .busy ∧ t.mode = .idle ∧ transmitAt s = some (24 * s.regCount + 2))

/-- R187: the outputs do not change mid-shift. In a TRANSMIT they change at most at step `24N + 1`; in a construction
the configuration of LATCH draws them, and they keep the draw until that step. -/
def Obligations.OutputsHoldDuringTheShift : Prop :=
  ∀ s t : State, Inv s → NoReset s → s.mode = .busy → step s = .next t →
    (s.seqOp = .transmit → s.upc ≠ 24 * s.regCount + 1 → t.outs = s.outs) ∧
    (s.seqOp = .construct → s.upc = 2 → ∃ d, t.outs = freeBits d s.regCount) ∧
    (s.seqOp = .construct → 3 ≤ s.upc → s.upc ≠ 24 * s.regCount + 5 → t.outs = s.outs)

/-- R135, R136: while a bit is shifted LATCH is LOW; SDATA is written only while SCLK is LOW, and a rise of SCLK finds
SDATA at the level of the bit being sent, which the micro-step names (R131, R132). -/
def Obligations.DataIsStableWhenTheClockRises : Prop :=
  ∀ s t : State, Inv s → NoReset s → s.mode = .busy → step s = .next t →
    (∀ lvl, t.trace = s.trace ++ [.write .sdata lvl] →
      s.lines.sclk.level = .known .low ∧ s.lines.latch.level = .known .low) ∧
    (∀ lvl, t.trace = s.trace ++ [.write .sclk lvl] → s.lines.latch.level = .known .low) ∧
    (t.trace = s.trace ++ [.write .sclk .high] →
      s.lines.sclk.level = .known .low ∧ ∃ j, j < 8 * s.regCount ∧ transmitAt s = some (3 + 3 * j) ∧
        s.lines.sdata.level = .known (levelOf (s.out (8 * s.regCount - 1 - j))) ∧
        t.stages[0]? = some (s.out (8 * s.regCount - 1 - j)))
end

