-- ==== Sys2Proof/Laws/Decode.lean ====
section
/-! SUPPORT. The fields of a packed word, and decoding in terms of its fields (R70, R74). -/

namespace Sys2Proof

/-- Every bit of a packed word (R70). -/
theorem packWord_getLsbD (op : BitVec 4) (v : Bool) (arg : BitVec 16) {i : Nat} (hi : i < 32) :
    (packWord op v arg).getLsbD i =
      if i < 16 then arg.getLsbD i else if i = 24 then v else if 28 ≤ i then op.getLsbD (i - 28) else false := by
  unfold packWord
  simp only [BitVec.getLsbD_or, BitVec.getLsbD_shiftLeft, BitVec.truncate_eq_setWidth, BitVec.getLsbD_setWidth, hi,
    decide_true, Bool.true_and]
  by_cases h : i < 16
  · simp [h, show i < 28 by omega, show i < 24 by omega]
  · have ha : arg.getLsbD i = false := BitVec.getLsbD_of_ge _ _ (by omega)
    by_cases h2 : i = 24
    · subst h2; simp
    · have hv : 24 ≤ i → (BitVec.ofBool v).getLsbD (i - 24) = false :=
        fun _ => BitVec.getLsbD_of_ge _ _ (by omega)
      by_cases h3 : 28 ≤ i
      · simp [h, h2, h3, ha, hv (by omega), Nat.not_lt.mpr h3, show i - 28 < 32 by omega]
      · by_cases h4 : i < 24
        · simp [h, h2, h3, h4, ha, show i < 28 by omega]
        · simp [h, h2, h3, h4, ha, hv (by omega), show i < 28 by omega]

@[simp] theorem packWord_op (op : BitVec 4) (v : Bool) (arg : BitVec 16) : (packWord op v arg).op = op := by
  unfold Word.op
  ext i hi
  rw [BitVec.getElem_extractLsb', packWord_getLsbD _ _ _ (by omega), if_neg (by omega), if_neg (by omega),
    if_pos (by omega)]
  simp [BitVec.getLsbD_eq_getElem, hi]

@[simp] theorem packWord_rz1 (op : BitVec 4) (v : Bool) (arg : BitVec 16) : (packWord op v arg).rz1 = 0 := by
  unfold Word.rz1
  ext i hi
  rw [BitVec.getElem_extractLsb', packWord_getLsbD _ _ _ (by omega), if_neg (by omega), if_neg (by omega),
    if_neg (by omega)]
  simp

@[simp] theorem packWord_rz2 (op : BitVec 4) (v : Bool) (arg : BitVec 16) : (packWord op v arg).rz2 = 0 := by
  unfold Word.rz2
  ext i hi
  rw [BitVec.getElem_extractLsb', packWord_getLsbD _ _ _ (by omega), if_neg (by omega), if_neg (by omega),
    if_neg (by omega)]
  simp

@[simp] theorem packWord_v (op : BitVec 4) (v : Bool) (arg : BitVec 16) : (packWord op v arg).v = v := by
  unfold Word.v
  rw [packWord_getLsbD _ _ _ (by omega)]
  simp

@[simp] theorem packWord_arg (op : BitVec 4) (v : Bool) (arg : BitVec 16) : (packWord op v arg).arg = arg := by
  unfold Word.arg
  ext i hi
  rw [BitVec.getElem_extractLsb', packWord_getLsbD _ _ _ (by omega), if_pos (by omega)]
  simp [BitVec.getLsbD_eq_getElem, hi]

/-- A word whose reserved fields are zero is its other fields, packed. -/
theorem packWord_fields {w : Word} (h1 : w.rz1 = 0) (h2 : w.rz2 = 0) : packWord w.op w.v w.arg = w := by
  apply BitVec.eq_of_getLsbD_eq
  intro i hi
  rw [packWord_getLsbD _ _ _ hi]
  split
  · simp [Word.arg, *]
  · split
    · subst_vars; rfl
    · split
      · simp only [Word.op, BitVec.getLsbD_extractLsb']
        simp [show i - 28 < 4 by omega, show 28 + (i - 28) = i by omega]
      · by_cases h : i < 24
        · have := congrArg (fun x => BitVec.getLsbD x (i - 16)) h2
          simp only [Word.rz2, BitVec.getLsbD_extractLsb'] at this
          simp [show i - 16 < 8 by omega, show 16 + (i - 16) = i by omega] at this
          exact this.symm
        · have := congrArg (fun x => BitVec.getLsbD x (i - 25)) h1
          simp only [Word.rz1, BitVec.getLsbD_extractLsb'] at this
          simp [show i - 25 < 3 by omega, show 25 + (i - 25) = i by omega] at this
          exact this.symm

/-- A packed word has no reserved bit set. -/
theorem decode_packWord (op : BitVec 4) (v : Bool) (arg : BitVec 16) :
    decode (packWord op v arg) = decodeOp op v arg := by
  simp [decode]

/-- A word that decodes to a command has its reserved fields zero, and is decoded by its OP (R74). -/
theorem decode_command {w : Word} {i : Instr} (h : decode w = .command i) :
    w.rz1 = 0 ∧ w.rz2 = 0 ∧ decodeOp w.op w.v w.arg = .command i := by
  unfold decode at h
  split at h
  · cases h
  · next hz =>
    simp only [not_or, not_not] at hz
    exact ⟨hz.1, hz.2, h⟩

/-- ARG as a number (R75). -/
theorem Word.arg_toNat (w : Word) : w.arg.toNat = w.toNat % 2 ^ 16 := by
  simp [Word.arg]

end Sys2Proof
end

