-- ==== Sys2Proof/Laws/Memory.lean ====
section
/-! SUPPORT. The laws of the buffer: a read after a write, a fill, and that every operation keeps the canonical form and the
address space; two canonical memories that read the same are equal. -/

namespace Sys2Proof.Machine

@[simp] theorem Memory.read_nil (k : Nat) : Memory.read [] k = Memory.blank := rfl

theorem Memory.wfAbove_mono {m : Memory} {lo lo' : Nat} (h : m.wfAbove lo = true) (hle : lo' ≤ lo) :
    m.wfAbove lo' = true := by
  cases m with
  | nil => rfl
  | cons c m =>
    obtain ⟨a, v⟩ := c
    simp only [Memory.wfAbove, Bool.and_eq_true, decide_eq_true_eq] at h ⊢
    exact ⟨⟨by omega, h.1.2⟩, h.2⟩

/-- Below the lowest listed address a canonical memory reads blank. -/
theorem Memory.read_eq_blank_of_lt {m : Memory} {lo k : Nat} (h : m.wfAbove lo = true) (hk : k < lo) :
    m.read k = Memory.blank := by
  induction m generalizing lo with
  | nil => rfl
  | cons c m ih =>
    obtain ⟨a, v⟩ := c
    simp only [Memory.wfAbove, Bool.and_eq_true, decide_eq_true_eq] at h
    have hak : a ≠ k := by omega
    simp only [Memory.read, hak, if_false]
    exact ih h.2 (by omega)

theorem Memory.wfAbove_write {m : Memory} {lo k : Nat} {v : Byte} (h : m.wfAbove lo = true) (hk : lo ≤ k) :
    (m.write k v).wfAbove lo = true := by
  induction m generalizing lo with
  | nil =>
    by_cases hv : v = Memory.blank <;> simp [Memory.write, Memory.wfAbove, hv, hk]
  | cons c m ih =>
    obtain ⟨a, u⟩ := c
    have h' := h
    simp only [Memory.wfAbove, Bool.and_eq_true, decide_eq_true_eq] at h
    obtain ⟨⟨hlo, hu⟩, hm⟩ := h
    simp only [Memory.write]
    split
    · next hka =>
      split
      · exact h'
      · next hv =>
        simp only [Memory.wfAbove, Bool.and_eq_true, decide_eq_true_eq]
        exact ⟨⟨hk, hv⟩, ⟨by omega, hu⟩, hm⟩
    · split
      · next hka =>
        split
        · exact Memory.wfAbove_mono hm (by omega)
        · next hv =>
          subst hka
          simp only [Memory.wfAbove, Bool.and_eq_true, decide_eq_true_eq]
          exact ⟨⟨hk, hv⟩, hm⟩
      · next h1 h2 =>
        simp only [Memory.wfAbove, Bool.and_eq_true, decide_eq_true_eq]
        exact ⟨⟨hlo, hu⟩, ih hm (by omega)⟩

/-- A write keeps the canonical form. -/
theorem Memory.wf_write {m : Memory} (k : Nat) (v : Byte) (h : m.wf = true) : (m.write k v).wf = true :=
  Memory.wfAbove_write h (Nat.zero_le k)

/-- A read after a write, from a canonical memory. -/
theorem Memory.read_write_above {m : Memory} {lo : Nat} (k j : Nat) (v : Byte) (h : m.wfAbove lo = true) :
    (m.write k v).read j = if j = k then v else m.read j := by
  induction m generalizing lo with
  | nil =>
    by_cases hv : v = Memory.blank <;> by_cases hj : j = k
    · simp [Memory.write, hv]
    · simp [Memory.write, hv]
    · simp [Memory.write, Memory.read, hv, hj]
    · simp [Memory.write, Memory.read, hv, hj, show k ≠ j from fun e => hj e.symm]
  | cons c m ih =>
    obtain ⟨a, u⟩ := c
    simp only [Memory.wfAbove, Bool.and_eq_true, decide_eq_true_eq] at h
    obtain ⟨⟨hlo, hu⟩, hm⟩ := h
    have hbelow : ∀ i, i < a + 1 → Memory.read m i = Memory.blank := fun i hi =>
      Memory.read_eq_blank_of_lt hm hi
    simp only [Memory.write]
    split
    · next hka =>
      split
      · next hv =>
        by_cases hj : j = k
        · have : a ≠ j := by omega
          simp [Memory.read, hj, hv, hbelow k (by omega), show a ≠ k by omega]
        · simp [hj]
      · by_cases hj : j = k
        · simp [Memory.read, hj]
        · simp [Memory.read, hj, show k ≠ j from fun e => hj e.symm]
    · split
      · next hka =>
        subst hka
        split
        · next hv =>
          by_cases hj : j = k
          · simp [hj, hv, hbelow k (by omega)]
          · simp [Memory.read, hj, show k ≠ j from fun e => hj e.symm]
        · by_cases hj : j = k
          · simp [Memory.read, hj]
          · simp [Memory.read, hj, show k ≠ j from fun e => hj e.symm]
      · next h1 h2 =>
        by_cases haj : a = j
        · simp [Memory.read, haj, show j ≠ k by omega]
        · simp [Memory.read, haj, ih hm]

/-- A read after a write: the written byte at its address, every other byte as before. -/
theorem Memory.read_write {m : Memory} (k j : Nat) (v : Byte) (h : m.wf = true) :
    (m.write k v).read j = if j = k then v else m.read j :=
  Memory.read_write_above k j v h

/-- A write inside the address space stays inside it. -/
theorem Memory.within_write {m : Memory} {size k : Nat} (v : Byte) (h : m.within size = true) (hk : k < size) :
    (m.write k v).within size = true := by
  induction m with
  | nil => by_cases hv : v = Memory.blank <;> simp [Memory.write, Memory.within, hv, hk]
  | cons c m ih =>
    obtain ⟨a, u⟩ := c
    simp only [Memory.within, List.all_cons, Bool.and_eq_true, decide_eq_true_eq] at h ih
    simp only [Memory.write]
    split
    · split
      · simp only [Memory.within, List.all_cons, Bool.and_eq_true, decide_eq_true_eq]; exact h
      · simp only [Memory.within, List.all_cons, Bool.and_eq_true, decide_eq_true_eq]; exact ⟨hk, h⟩
    · split
      · split
        · exact h.2
        · simp only [Memory.within, List.all_cons, Bool.and_eq_true, decide_eq_true_eq]; exact ⟨hk, h.2⟩
      · simp only [Memory.within, List.all_cons, Bool.and_eq_true, decide_eq_true_eq]; exact ⟨h.1, ih h.2⟩

/-- A fill keeps the canonical form. -/
theorem Memory.wf_fill {m : Memory} (n : Nat) (v : Byte) (h : m.wf = true) : (m.fill n v).wf = true := by
  induction n generalizing m with
  | zero => exact h
  | succ n ih => exact ih (Memory.wf_write n v h)

/-- A read after a fill: the filled byte below `n`, every other byte as before. -/
theorem Memory.read_fill {m : Memory} (n j : Nat) (v : Byte) (h : m.wf = true) :
    (m.fill n v).read j = if j < n then v else m.read j := by
  induction n generalizing m with
  | zero => simp [Memory.fill]
  | succ n ih =>
    rw [Memory.fill, ih (Memory.wf_write n v h), Memory.read_write n j v h]
    by_cases h1 : j < n
    · simp [h1, show j < n + 1 by omega]
    · by_cases h2 : j = n
      · simp [h2]
      · simp [h1, h2, show ¬ j < n + 1 by omega]

/-- A fill inside the address space stays inside it. -/
theorem Memory.within_fill {m : Memory} {size n : Nat} (v : Byte) (h : m.within size = true) (hn : n ≤ size) :
    (m.fill n v).within size = true := by
  induction n generalizing m with
  | zero => exact h
  | succ n ih => exact ih (Memory.within_write v h (by omega)) (by omega)

theorem Memory.ext_above {m m' : Memory} {lo lo' : Nat} (h : m.wfAbove lo = true) (h' : m'.wfAbove lo' = true)
    (hr : ∀ k, m.read k = m'.read k) : m = m' := by
  induction m generalizing m' lo lo' with
  | nil =>
    cases m' with
    | nil => rfl
    | cons c m' =>
      obtain ⟨a, v⟩ := c
      simp only [Memory.wfAbove, Bool.and_eq_true, decide_eq_true_eq] at h'
      have := hr a
      simp only [Memory.read, if_true] at this
      exact absurd this.symm h'.1.2
  | cons c m ih =>
    obtain ⟨a, v⟩ := c
    simp only [Memory.wfAbove, Bool.and_eq_true, decide_eq_true_eq] at h
    cases m' with
    | nil =>
      have := hr a
      simp only [Memory.read, if_true] at this
      exact absurd this h.1.2
    | cons c' m' =>
      obtain ⟨a', v'⟩ := c'
      simp only [Memory.wfAbove, Bool.and_eq_true, decide_eq_true_eq] at h'
      have haa : a = a' := by
        rcases Nat.lt_trichotomy a a' with hlt | heq | hgt
        · have := hr a
          simp only [Memory.read, if_true, show a' ≠ a by omega, if_false,
            Memory.read_eq_blank_of_lt h'.2 (show a < a' + 1 by omega)] at this
          exact absurd this h.1.2
        · exact heq
        · have := hr a'
          simp only [Memory.read, if_true, show a ≠ a' by omega, if_false,
            Memory.read_eq_blank_of_lt h.2 (show a' < a + 1 by omega)] at this
          exact absurd this.symm h'.1.2
      subst haa
      have hv : v = v' := by simpa [Memory.read] using hr a
      subst hv
      have : m = m' := ih h.2 h'.2 fun k => by
        by_cases hk : a = k
        · rw [Memory.read_eq_blank_of_lt h.2 (by omega), Memory.read_eq_blank_of_lt h'.2 (by omega)]
        · simpa [Memory.read, hk] using hr k
      rw [this]

/-- Two canonical memories that read the same everywhere are the same data. -/
theorem Memory.ext_of_read {m m' : Memory} (h : m.wf = true) (h' : m'.wf = true)
    (hr : ∀ k, m.read k = m'.read k) : m = m' :=
  Memory.ext_above h h' hr

end Sys2Proof.Machine
end

