-- ==== Sys2Proof/Laws/State.lean ====
section
/-! SUPPORT. One lemma per field of State per shared update, so that no proof unfolds a record update. -/

namespace Sys2Proof.Machine

@[simp] theorem Lines.get_set_same (ls : Lines) (l : Line) (x : LineState) : (ls.set l x).get l = x := by
  cases l <;> rfl

theorem Lines.get_set_of_ne (ls : Lines) {l l' : Line} (x : LineState) (h : l' ≠ l) :
    (ls.set l x).get l' = ls.get l' := by
  cases l <;> cases l' <;> first | rfl | exact absurd rfl h

@[simp] theorem Lines.get_sdata (ls : Lines) : ls.get .sdata = ls.sdata := rfl

@[simp] theorem Lines.set_sdata_sdata (ls : Lines) (x : LineState) : (ls.set .sdata x).sdata = x := rfl

@[simp] theorem Lines.set_sdata_sclk (ls : Lines) (x : LineState) : (ls.set .sdata x).sclk = ls.sclk := rfl

@[simp] theorem Lines.set_sdata_latch (ls : Lines) (x : LineState) : (ls.set .sdata x).latch = ls.latch := rfl

@[simp] theorem Lines.get_sclk (ls : Lines) : ls.get .sclk = ls.sclk := rfl

@[simp] theorem Lines.set_sclk_sdata (ls : Lines) (x : LineState) : (ls.set .sclk x).sdata = ls.sdata := rfl

@[simp] theorem Lines.set_sclk_sclk (ls : Lines) (x : LineState) : (ls.set .sclk x).sclk = x := rfl

@[simp] theorem Lines.set_sclk_latch (ls : Lines) (x : LineState) : (ls.set .sclk x).latch = ls.latch := rfl

@[simp] theorem Lines.get_latch (ls : Lines) : ls.get .latch = ls.latch := rfl

@[simp] theorem Lines.set_latch_sdata (ls : Lines) (x : LineState) : (ls.set .latch x).sdata = ls.sdata := rfl

@[simp] theorem Lines.set_latch_sclk (ls : Lines) (x : LineState) : (ls.set .latch x).sclk = ls.sclk := rfl

@[simp] theorem Lines.set_latch_latch (ls : Lines) (x : LineState) : (ls.set .latch x).latch = x := rfl

/-! ### `State.respond` -/

@[simp] theorem State.respond_cfg (s : State) (r : Byte) : (s.respond r).cfg = s.cfg := rfl

@[simp] theorem State.respond_mode (s : State) (r : Byte) : (s.respond r).mode = s.mode := rfl

@[simp] theorem State.respond_n (s : State) (r : Byte) : (s.respond r).n = s.n := rfl

@[simp] theorem State.respond_buf (s : State) (r : Byte) : (s.respond r).buf = s.buf := rfl

@[simp] theorem State.respond_dirty (s : State) (r : Byte) : (s.respond r).dirty = s.dirty := rfl

@[simp] theorem State.respond_seqOp (s : State) (r : Byte) : (s.respond r).seqOp = s.seqOp := rfl

@[simp] theorem State.respond_upc (s : State) (r : Byte) : (s.respond r).upc = s.upc := rfl

@[simp] theorem State.respond_lastFault (s : State) (r : Byte) : (s.respond r).lastFault = s.lastFault := rfl

@[simp] theorem State.respond_faultSeen (s : State) (r : Byte) : (s.respond r).faultSeen = s.faultSeen := rfl

@[simp] theorem State.respond_resp (s : State) (r : Byte) : (s.respond r).resp = r := rfl

@[simp] theorem State.respond_lines (s : State) (r : Byte) : (s.respond r).lines = s.lines := rfl

@[simp] theorem State.respond_trace (s : State) (r : Byte) : (s.respond r).trace = s.trace := rfl

@[simp] theorem State.respond_stages (s : State) (r : Byte) : (s.respond r).stages = s.stages := rfl

@[simp] theorem State.respond_outs (s : State) (r : Byte) : (s.respond r).outs = s.outs := rfl

@[simp] theorem State.respond_responses (s : State) (r : Byte) : (s.respond r).responses = s.responses ++ [r] := rfl

@[simp] theorem State.respond_host (s : State) (r : Byte) : (s.respond r).host = s.host := rfl

@[simp] theorem State.respond_draws (s : State) (r : Byte) : (s.respond r).draws = s.draws := rfl

/-! ### `raiseFault` -/

@[simp] theorem raiseFault_cfg (c : FaultCode) (s : State) : (raiseFault c s).cfg = s.cfg := rfl

@[simp] theorem raiseFault_mode (c : FaultCode) (s : State) : (raiseFault c s).mode = s.mode := rfl

@[simp] theorem raiseFault_n (c : FaultCode) (s : State) : (raiseFault c s).n = s.n := rfl

@[simp] theorem raiseFault_buf (c : FaultCode) (s : State) : (raiseFault c s).buf = s.buf := rfl

@[simp] theorem raiseFault_dirty (c : FaultCode) (s : State) : (raiseFault c s).dirty = s.dirty := rfl

@[simp] theorem raiseFault_seqOp (c : FaultCode) (s : State) : (raiseFault c s).seqOp = s.seqOp := rfl

@[simp] theorem raiseFault_upc (c : FaultCode) (s : State) : (raiseFault c s).upc = s.upc := rfl

@[simp] theorem raiseFault_lastFault (c : FaultCode) (s : State) : (raiseFault c s).lastFault = c.code := rfl

@[simp] theorem raiseFault_faultSeen (c : FaultCode) (s : State) : (raiseFault c s).faultSeen = true := rfl

@[simp] theorem raiseFault_resp (c : FaultCode) (s : State) : (raiseFault c s).resp = responseWord false c.code := rfl

@[simp] theorem raiseFault_lines (c : FaultCode) (s : State) : (raiseFault c s).lines = s.lines := rfl

@[simp] theorem raiseFault_trace (c : FaultCode) (s : State) : (raiseFault c s).trace = s.trace := rfl

@[simp] theorem raiseFault_stages (c : FaultCode) (s : State) : (raiseFault c s).stages = s.stages := rfl

@[simp] theorem raiseFault_outs (c : FaultCode) (s : State) : (raiseFault c s).outs = s.outs := rfl

@[simp] theorem raiseFault_responses (c : FaultCode) (s : State) : (raiseFault c s).responses = s.responses ++ [responseWord false c.code] := rfl

@[simp] theorem raiseFault_host (c : FaultCode) (s : State) : (raiseFault c s).host = s.host := rfl

@[simp] theorem raiseFault_draws (c : FaultCode) (s : State) : (raiseFault c s).draws = s.draws := rfl

/-! ### `State.markDirty` -/

@[simp] theorem State.markDirty_cfg (s : State) : (s.markDirty).cfg = s.cfg := rfl

@[simp] theorem State.markDirty_mode (s : State) : (s.markDirty).mode = s.mode := rfl

@[simp] theorem State.markDirty_n (s : State) : (s.markDirty).n = s.n := rfl

@[simp] theorem State.markDirty_buf (s : State) : (s.markDirty).buf = s.buf := rfl

@[simp] theorem State.markDirty_dirty (s : State) : (s.markDirty).dirty = true := rfl

@[simp] theorem State.markDirty_seqOp (s : State) : (s.markDirty).seqOp = s.seqOp := rfl

@[simp] theorem State.markDirty_upc (s : State) : (s.markDirty).upc = s.upc := rfl

@[simp] theorem State.markDirty_lastFault (s : State) : (s.markDirty).lastFault = s.lastFault := rfl

@[simp] theorem State.markDirty_faultSeen (s : State) : (s.markDirty).faultSeen = s.faultSeen := rfl

@[simp] theorem State.markDirty_resp (s : State) : (s.markDirty).resp = s.resp := rfl

@[simp] theorem State.markDirty_lines (s : State) : (s.markDirty).lines = s.lines := rfl

@[simp] theorem State.markDirty_trace (s : State) : (s.markDirty).trace = s.trace := rfl

@[simp] theorem State.markDirty_stages (s : State) : (s.markDirty).stages = s.stages := rfl

@[simp] theorem State.markDirty_outs (s : State) : (s.markDirty).outs = s.outs := rfl

@[simp] theorem State.markDirty_responses (s : State) : (s.markDirty).responses = s.responses := rfl

@[simp] theorem State.markDirty_host (s : State) : (s.markDirty).host = s.host := rfl

@[simp] theorem State.markDirty_draws (s : State) : (s.markDirty).draws = s.draws := rfl

/-! ### `State.clearDirty` -/

@[simp] theorem State.clearDirty_cfg (s : State) : (s.clearDirty).cfg = s.cfg := rfl

@[simp] theorem State.clearDirty_mode (s : State) : (s.clearDirty).mode = s.mode := rfl

@[simp] theorem State.clearDirty_n (s : State) : (s.clearDirty).n = s.n := rfl

@[simp] theorem State.clearDirty_buf (s : State) : (s.clearDirty).buf = s.buf := rfl

@[simp] theorem State.clearDirty_dirty (s : State) : (s.clearDirty).dirty = false := rfl

@[simp] theorem State.clearDirty_seqOp (s : State) : (s.clearDirty).seqOp = s.seqOp := rfl

@[simp] theorem State.clearDirty_upc (s : State) : (s.clearDirty).upc = s.upc := rfl

@[simp] theorem State.clearDirty_lastFault (s : State) : (s.clearDirty).lastFault = s.lastFault := rfl

@[simp] theorem State.clearDirty_faultSeen (s : State) : (s.clearDirty).faultSeen = s.faultSeen := rfl

@[simp] theorem State.clearDirty_resp (s : State) : (s.clearDirty).resp = s.resp := rfl

@[simp] theorem State.clearDirty_lines (s : State) : (s.clearDirty).lines = s.lines := rfl

@[simp] theorem State.clearDirty_trace (s : State) : (s.clearDirty).trace = s.trace := rfl

@[simp] theorem State.clearDirty_stages (s : State) : (s.clearDirty).stages = s.stages := rfl

@[simp] theorem State.clearDirty_outs (s : State) : (s.clearDirty).outs = s.outs := rfl

@[simp] theorem State.clearDirty_responses (s : State) : (s.clearDirty).responses = s.responses := rfl

@[simp] theorem State.clearDirty_host (s : State) : (s.clearDirty).host = s.host := rfl

@[simp] theorem State.clearDirty_draws (s : State) : (s.clearDirty).draws = s.draws := rfl

/-! ### `State.setBuf` -/

@[simp] theorem State.setBuf_cfg (s : State) (m : Memory) : (s.setBuf m).cfg = s.cfg := rfl

@[simp] theorem State.setBuf_mode (s : State) (m : Memory) : (s.setBuf m).mode = s.mode := rfl

@[simp] theorem State.setBuf_n (s : State) (m : Memory) : (s.setBuf m).n = s.n := rfl

@[simp] theorem State.setBuf_buf (s : State) (m : Memory) : (s.setBuf m).buf = m := rfl

@[simp] theorem State.setBuf_dirty (s : State) (m : Memory) : (s.setBuf m).dirty = s.dirty := rfl

@[simp] theorem State.setBuf_seqOp (s : State) (m : Memory) : (s.setBuf m).seqOp = s.seqOp := rfl

@[simp] theorem State.setBuf_upc (s : State) (m : Memory) : (s.setBuf m).upc = s.upc := rfl

@[simp] theorem State.setBuf_lastFault (s : State) (m : Memory) : (s.setBuf m).lastFault = s.lastFault := rfl

@[simp] theorem State.setBuf_faultSeen (s : State) (m : Memory) : (s.setBuf m).faultSeen = s.faultSeen := rfl

@[simp] theorem State.setBuf_resp (s : State) (m : Memory) : (s.setBuf m).resp = s.resp := rfl

@[simp] theorem State.setBuf_lines (s : State) (m : Memory) : (s.setBuf m).lines = s.lines := rfl

@[simp] theorem State.setBuf_trace (s : State) (m : Memory) : (s.setBuf m).trace = s.trace := rfl

@[simp] theorem State.setBuf_stages (s : State) (m : Memory) : (s.setBuf m).stages = s.stages := rfl

@[simp] theorem State.setBuf_outs (s : State) (m : Memory) : (s.setBuf m).outs = s.outs := rfl

@[simp] theorem State.setBuf_responses (s : State) (m : Memory) : (s.setBuf m).responses = s.responses := rfl

@[simp] theorem State.setBuf_host (s : State) (m : Memory) : (s.setBuf m).host = s.host := rfl

@[simp] theorem State.setBuf_draws (s : State) (m : Memory) : (s.setBuf m).draws = s.draws := rfl

/-! ### `State.setHost` -/

@[simp] theorem State.setHost_cfg (s : State) (moves : List HostMove) : (s.setHost moves).cfg = s.cfg := rfl

@[simp] theorem State.setHost_mode (s : State) (moves : List HostMove) : (s.setHost moves).mode = s.mode := rfl

@[simp] theorem State.setHost_n (s : State) (moves : List HostMove) : (s.setHost moves).n = s.n := rfl

@[simp] theorem State.setHost_buf (s : State) (moves : List HostMove) : (s.setHost moves).buf = s.buf := rfl

@[simp] theorem State.setHost_dirty (s : State) (moves : List HostMove) : (s.setHost moves).dirty = s.dirty := rfl

@[simp] theorem State.setHost_seqOp (s : State) (moves : List HostMove) : (s.setHost moves).seqOp = s.seqOp := rfl

@[simp] theorem State.setHost_upc (s : State) (moves : List HostMove) : (s.setHost moves).upc = s.upc := rfl

@[simp] theorem State.setHost_lastFault (s : State) (moves : List HostMove) : (s.setHost moves).lastFault = s.lastFault := rfl

@[simp] theorem State.setHost_faultSeen (s : State) (moves : List HostMove) : (s.setHost moves).faultSeen = s.faultSeen := rfl

@[simp] theorem State.setHost_resp (s : State) (moves : List HostMove) : (s.setHost moves).resp = s.resp := rfl

@[simp] theorem State.setHost_lines (s : State) (moves : List HostMove) : (s.setHost moves).lines = s.lines := rfl

@[simp] theorem State.setHost_trace (s : State) (moves : List HostMove) : (s.setHost moves).trace = s.trace := rfl

@[simp] theorem State.setHost_stages (s : State) (moves : List HostMove) : (s.setHost moves).stages = s.stages := rfl

@[simp] theorem State.setHost_outs (s : State) (moves : List HostMove) : (s.setHost moves).outs = s.outs := rfl

@[simp] theorem State.setHost_responses (s : State) (moves : List HostMove) : (s.setHost moves).responses = s.responses := rfl

@[simp] theorem State.setHost_host (s : State) (moves : List HostMove) : (s.setHost moves).host = moves := rfl

@[simp] theorem State.setHost_draws (s : State) (moves : List HostMove) : (s.setHost moves).draws = s.draws := rfl

/-! ### `State.nextUpc` -/

@[simp] theorem State.nextUpc_cfg (s : State) : (s.nextUpc).cfg = s.cfg := rfl

@[simp] theorem State.nextUpc_mode (s : State) : (s.nextUpc).mode = s.mode := rfl

@[simp] theorem State.nextUpc_n (s : State) : (s.nextUpc).n = s.n := rfl

@[simp] theorem State.nextUpc_buf (s : State) : (s.nextUpc).buf = s.buf := rfl

@[simp] theorem State.nextUpc_dirty (s : State) : (s.nextUpc).dirty = s.dirty := rfl

@[simp] theorem State.nextUpc_seqOp (s : State) : (s.nextUpc).seqOp = s.seqOp := rfl

@[simp] theorem State.nextUpc_upc (s : State) : (s.nextUpc).upc = s.upc + 1 := rfl

@[simp] theorem State.nextUpc_lastFault (s : State) : (s.nextUpc).lastFault = s.lastFault := rfl

@[simp] theorem State.nextUpc_faultSeen (s : State) : (s.nextUpc).faultSeen = s.faultSeen := rfl

@[simp] theorem State.nextUpc_resp (s : State) : (s.nextUpc).resp = s.resp := rfl

@[simp] theorem State.nextUpc_lines (s : State) : (s.nextUpc).lines = s.lines := rfl

@[simp] theorem State.nextUpc_trace (s : State) : (s.nextUpc).trace = s.trace := rfl

@[simp] theorem State.nextUpc_stages (s : State) : (s.nextUpc).stages = s.stages := rfl

@[simp] theorem State.nextUpc_outs (s : State) : (s.nextUpc).outs = s.outs := rfl

@[simp] theorem State.nextUpc_responses (s : State) : (s.nextUpc).responses = s.responses := rfl

@[simp] theorem State.nextUpc_host (s : State) : (s.nextUpc).host = s.host := rfl

@[simp] theorem State.nextUpc_draws (s : State) : (s.nextUpc).draws = s.draws := rfl

/-! ### `State.setCount` -/

@[simp] theorem State.setCount_cfg (s : State) (n : Nat) : (s.setCount n).cfg = s.cfg := rfl

@[simp] theorem State.setCount_mode (s : State) (n : Nat) : (s.setCount n).mode = s.mode := rfl

@[simp] theorem State.setCount_n (s : State) (n : Nat) : (s.setCount n).n = BitVec.ofNat 16 n := rfl

@[simp] theorem State.setCount_buf (s : State) (n : Nat) : (s.setCount n).buf = s.buf := rfl

@[simp] theorem State.setCount_dirty (s : State) (n : Nat) : (s.setCount n).dirty = s.dirty := rfl

@[simp] theorem State.setCount_seqOp (s : State) (n : Nat) : (s.setCount n).seqOp = s.seqOp := rfl

@[simp] theorem State.setCount_upc (s : State) (n : Nat) : (s.setCount n).upc = s.upc := rfl

@[simp] theorem State.setCount_lastFault (s : State) (n : Nat) : (s.setCount n).lastFault = s.lastFault := rfl

@[simp] theorem State.setCount_faultSeen (s : State) (n : Nat) : (s.setCount n).faultSeen = s.faultSeen := rfl

@[simp] theorem State.setCount_resp (s : State) (n : Nat) : (s.setCount n).resp = s.resp := rfl

@[simp] theorem State.setCount_lines (s : State) (n : Nat) : (s.setCount n).lines = s.lines := rfl

@[simp] theorem State.setCount_trace (s : State) (n : Nat) : (s.setCount n).trace = s.trace := rfl

@[simp] theorem State.setCount_stages (s : State) (n : Nat) : (s.setCount n).stages = freeBits s.draws n := rfl

@[simp] theorem State.setCount_outs (s : State) (n : Nat) : (s.setCount n).outs = freeBits (s.draws + 1) n := rfl

@[simp] theorem State.setCount_responses (s : State) (n : Nat) : (s.setCount n).responses = s.responses := rfl

@[simp] theorem State.setCount_host (s : State) (n : Nat) : (s.setCount n).host = s.host := rfl

@[simp] theorem State.setCount_draws (s : State) (n : Nat) : (s.setCount n).draws = s.draws + 2 := rfl

/-! ### `State.lineEvent` -/

@[simp] theorem State.lineEvent_cfg (s : State) (l : Line) (x : LineState) (e : LineEvent) : (s.lineEvent l x e).cfg = s.cfg := rfl

@[simp] theorem State.lineEvent_mode (s : State) (l : Line) (x : LineState) (e : LineEvent) : (s.lineEvent l x e).mode = s.mode := rfl

@[simp] theorem State.lineEvent_n (s : State) (l : Line) (x : LineState) (e : LineEvent) : (s.lineEvent l x e).n = s.n := rfl

@[simp] theorem State.lineEvent_buf (s : State) (l : Line) (x : LineState) (e : LineEvent) : (s.lineEvent l x e).buf = s.buf := rfl

@[simp] theorem State.lineEvent_dirty (s : State) (l : Line) (x : LineState) (e : LineEvent) : (s.lineEvent l x e).dirty = s.dirty := rfl

@[simp] theorem State.lineEvent_seqOp (s : State) (l : Line) (x : LineState) (e : LineEvent) : (s.lineEvent l x e).seqOp = s.seqOp := rfl

@[simp] theorem State.lineEvent_upc (s : State) (l : Line) (x : LineState) (e : LineEvent) : (s.lineEvent l x e).upc = s.upc := rfl

@[simp] theorem State.lineEvent_lastFault (s : State) (l : Line) (x : LineState) (e : LineEvent) : (s.lineEvent l x e).lastFault = s.lastFault := rfl

@[simp] theorem State.lineEvent_faultSeen (s : State) (l : Line) (x : LineState) (e : LineEvent) : (s.lineEvent l x e).faultSeen = s.faultSeen := rfl

@[simp] theorem State.lineEvent_resp (s : State) (l : Line) (x : LineState) (e : LineEvent) : (s.lineEvent l x e).resp = s.resp := rfl

@[simp] theorem State.lineEvent_lines (s : State) (l : Line) (x : LineState) (e : LineEvent) : (s.lineEvent l x e).lines = s.lines.set l x := rfl

@[simp] theorem State.lineEvent_trace (s : State) (l : Line) (x : LineState) (e : LineEvent) : (s.lineEvent l x e).trace = s.trace ++ [e] := rfl

@[simp] theorem State.lineEvent_stages (s : State) (l : Line) (x : LineState) (e : LineEvent) : (s.lineEvent l x e).stages = s.stages := rfl

@[simp] theorem State.lineEvent_outs (s : State) (l : Line) (x : LineState) (e : LineEvent) : (s.lineEvent l x e).outs = s.outs := rfl

@[simp] theorem State.lineEvent_responses (s : State) (l : Line) (x : LineState) (e : LineEvent) : (s.lineEvent l x e).responses = s.responses := rfl

@[simp] theorem State.lineEvent_host (s : State) (l : Line) (x : LineState) (e : LineEvent) : (s.lineEvent l x e).host = s.host := rfl

@[simp] theorem State.lineEvent_draws (s : State) (l : Line) (x : LineState) (e : LineEvent) : (s.lineEvent l x e).draws = s.draws := rfl

/-! ### `State.shiftChain` -/

@[simp] theorem State.shiftChain_cfg (s : State) : (s.shiftChain).cfg = s.cfg := rfl

@[simp] theorem State.shiftChain_mode (s : State) : (s.shiftChain).mode = s.mode := rfl

@[simp] theorem State.shiftChain_n (s : State) : (s.shiftChain).n = s.n := rfl

@[simp] theorem State.shiftChain_buf (s : State) : (s.shiftChain).buf = s.buf := rfl

@[simp] theorem State.shiftChain_dirty (s : State) : (s.shiftChain).dirty = s.dirty := rfl

@[simp] theorem State.shiftChain_seqOp (s : State) : (s.shiftChain).seqOp = s.seqOp := rfl

@[simp] theorem State.shiftChain_upc (s : State) : (s.shiftChain).upc = s.upc := rfl

@[simp] theorem State.shiftChain_lastFault (s : State) : (s.shiftChain).lastFault = s.lastFault := rfl

@[simp] theorem State.shiftChain_faultSeen (s : State) : (s.shiftChain).faultSeen = s.faultSeen := rfl

@[simp] theorem State.shiftChain_resp (s : State) : (s.shiftChain).resp = s.resp := rfl

@[simp] theorem State.shiftChain_lines (s : State) : (s.shiftChain).lines = s.lines := rfl

@[simp] theorem State.shiftChain_trace (s : State) : (s.shiftChain).trace = s.trace := rfl

@[simp] theorem State.shiftChain_stages (s : State) : (s.shiftChain).stages = shiftStages s.sampledBit s.stages := rfl

@[simp] theorem State.shiftChain_outs (s : State) : (s.shiftChain).outs = s.outs := rfl

@[simp] theorem State.shiftChain_responses (s : State) : (s.shiftChain).responses = s.responses := rfl

@[simp] theorem State.shiftChain_host (s : State) : (s.shiftChain).host = s.host := rfl

@[simp] theorem State.shiftChain_draws (s : State) : (s.shiftChain).draws = s.draws + s.sampleDraws := rfl

/-! ### `State.chainReact` -/

@[simp] theorem State.chainReact_cfg (s : State) (l : Line) (before lvl : Level) : (s.chainReact l before lvl).cfg = s.cfg := by
  cases l with
  | sdata => rfl
  | sclk => simp only [State.chainReact]; split <;> rfl
  | latch => rfl

@[simp] theorem State.chainReact_mode (s : State) (l : Line) (before lvl : Level) : (s.chainReact l before lvl).mode = s.mode := by
  cases l with
  | sdata => rfl
  | sclk => simp only [State.chainReact]; split <;> rfl
  | latch => rfl

@[simp] theorem State.chainReact_n (s : State) (l : Line) (before lvl : Level) : (s.chainReact l before lvl).n = s.n := by
  cases l with
  | sdata => rfl
  | sclk => simp only [State.chainReact]; split <;> rfl
  | latch => rfl

@[simp] theorem State.chainReact_buf (s : State) (l : Line) (before lvl : Level) : (s.chainReact l before lvl).buf = s.buf := by
  cases l with
  | sdata => rfl
  | sclk => simp only [State.chainReact]; split <;> rfl
  | latch => rfl

@[simp] theorem State.chainReact_dirty (s : State) (l : Line) (before lvl : Level) : (s.chainReact l before lvl).dirty = s.dirty := by
  cases l with
  | sdata => rfl
  | sclk => simp only [State.chainReact]; split <;> rfl
  | latch => rfl

@[simp] theorem State.chainReact_seqOp (s : State) (l : Line) (before lvl : Level) : (s.chainReact l before lvl).seqOp = s.seqOp := by
  cases l with
  | sdata => rfl
  | sclk => simp only [State.chainReact]; split <;> rfl
  | latch => rfl

@[simp] theorem State.chainReact_upc (s : State) (l : Line) (before lvl : Level) : (s.chainReact l before lvl).upc = s.upc := by
  cases l with
  | sdata => rfl
  | sclk => simp only [State.chainReact]; split <;> rfl
  | latch => rfl

@[simp] theorem State.chainReact_lastFault (s : State) (l : Line) (before lvl : Level) : (s.chainReact l before lvl).lastFault = s.lastFault := by
  cases l with
  | sdata => rfl
  | sclk => simp only [State.chainReact]; split <;> rfl
  | latch => rfl

@[simp] theorem State.chainReact_faultSeen (s : State) (l : Line) (before lvl : Level) : (s.chainReact l before lvl).faultSeen = s.faultSeen := by
  cases l with
  | sdata => rfl
  | sclk => simp only [State.chainReact]; split <;> rfl
  | latch => rfl

@[simp] theorem State.chainReact_resp (s : State) (l : Line) (before lvl : Level) : (s.chainReact l before lvl).resp = s.resp := by
  cases l with
  | sdata => rfl
  | sclk => simp only [State.chainReact]; split <;> rfl
  | latch => rfl

@[simp] theorem State.chainReact_lines (s : State) (l : Line) (before lvl : Level) : (s.chainReact l before lvl).lines = s.lines := by
  cases l with
  | sdata => rfl
  | sclk => simp only [State.chainReact]; split <;> rfl
  | latch => rfl

@[simp] theorem State.chainReact_trace (s : State) (l : Line) (before lvl : Level) : (s.chainReact l before lvl).trace = s.trace := by
  cases l with
  | sdata => rfl
  | sclk => simp only [State.chainReact]; split <;> rfl
  | latch => rfl

@[simp] theorem State.chainReact_responses (s : State) (l : Line) (before lvl : Level) : (s.chainReact l before lvl).responses = s.responses := by
  cases l with
  | sdata => rfl
  | sclk => simp only [State.chainReact]; split <;> rfl
  | latch => rfl

@[simp] theorem State.chainReact_host (s : State) (l : Line) (before lvl : Level) : (s.chainReact l before lvl).host = s.host := by
  cases l with
  | sdata => rfl
  | sclk => simp only [State.chainReact]; split <;> rfl
  | latch => rfl

/-! ### `State.chainDraw` -/

@[simp] theorem State.chainDraw_cfg (s : State) (l : Line) (d : Nat) : (s.chainDraw l d).cfg = s.cfg := by
  cases l <;> rfl

@[simp] theorem State.chainDraw_mode (s : State) (l : Line) (d : Nat) : (s.chainDraw l d).mode = s.mode := by
  cases l <;> rfl

@[simp] theorem State.chainDraw_n (s : State) (l : Line) (d : Nat) : (s.chainDraw l d).n = s.n := by
  cases l <;> rfl

@[simp] theorem State.chainDraw_buf (s : State) (l : Line) (d : Nat) : (s.chainDraw l d).buf = s.buf := by
  cases l <;> rfl

@[simp] theorem State.chainDraw_dirty (s : State) (l : Line) (d : Nat) : (s.chainDraw l d).dirty = s.dirty := by
  cases l <;> rfl

@[simp] theorem State.chainDraw_seqOp (s : State) (l : Line) (d : Nat) : (s.chainDraw l d).seqOp = s.seqOp := by
  cases l <;> rfl

@[simp] theorem State.chainDraw_upc (s : State) (l : Line) (d : Nat) : (s.chainDraw l d).upc = s.upc := by
  cases l <;> rfl

@[simp] theorem State.chainDraw_lastFault (s : State) (l : Line) (d : Nat) : (s.chainDraw l d).lastFault = s.lastFault := by
  cases l <;> rfl

@[simp] theorem State.chainDraw_faultSeen (s : State) (l : Line) (d : Nat) : (s.chainDraw l d).faultSeen = s.faultSeen := by
  cases l <;> rfl

@[simp] theorem State.chainDraw_resp (s : State) (l : Line) (d : Nat) : (s.chainDraw l d).resp = s.resp := by
  cases l <;> rfl

@[simp] theorem State.chainDraw_lines (s : State) (l : Line) (d : Nat) : (s.chainDraw l d).lines = s.lines := by
  cases l <;> rfl

@[simp] theorem State.chainDraw_trace (s : State) (l : Line) (d : Nat) : (s.chainDraw l d).trace = s.trace := by
  cases l <;> rfl

@[simp] theorem State.chainDraw_responses (s : State) (l : Line) (d : Nat) : (s.chainDraw l d).responses = s.responses := by
  cases l <;> rfl

@[simp] theorem State.chainDraw_host (s : State) (l : Line) (d : Nat) : (s.chainDraw l d).host = s.host := by
  cases l <;> rfl

@[simp] theorem State.chainDraw_draws (s : State) (l : Line) (d : Nat) : (s.chainDraw l d).draws = s.draws := by
  cases l <;> rfl

/-! ### `pinConfigure` -/

@[simp] theorem pinConfigure_cfg (l : Line) (s : State) : (pinConfigure l s).cfg = s.cfg := by
  cases l <;> rfl

@[simp] theorem pinConfigure_mode (l : Line) (s : State) : (pinConfigure l s).mode = s.mode := by
  cases l <;> rfl

@[simp] theorem pinConfigure_n (l : Line) (s : State) : (pinConfigure l s).n = s.n := by
  cases l <;> rfl

@[simp] theorem pinConfigure_buf (l : Line) (s : State) : (pinConfigure l s).buf = s.buf := by
  cases l <;> rfl

@[simp] theorem pinConfigure_dirty (l : Line) (s : State) : (pinConfigure l s).dirty = s.dirty := by
  cases l <;> rfl

@[simp] theorem pinConfigure_seqOp (l : Line) (s : State) : (pinConfigure l s).seqOp = s.seqOp := by
  cases l <;> rfl

@[simp] theorem pinConfigure_upc (l : Line) (s : State) : (pinConfigure l s).upc = s.upc := by
  cases l <;> rfl

@[simp] theorem pinConfigure_lastFault (l : Line) (s : State) : (pinConfigure l s).lastFault = s.lastFault := by
  cases l <;> rfl

@[simp] theorem pinConfigure_faultSeen (l : Line) (s : State) : (pinConfigure l s).faultSeen = s.faultSeen := by
  cases l <;> rfl

@[simp] theorem pinConfigure_resp (l : Line) (s : State) : (pinConfigure l s).resp = s.resp := by
  cases l <;> rfl

@[simp] theorem pinConfigure_lines (l : Line) (s : State) : (pinConfigure l s).lines = s.lines.set l { cfg := .out, level := .unknown (Config.initLevel s.draws) } := by
  cases l <;> rfl

@[simp] theorem pinConfigure_trace (l : Line) (s : State) : (pinConfigure l s).trace = s.trace ++ [.config l] := by
  cases l <;> rfl

@[simp] theorem pinConfigure_responses (l : Line) (s : State) : (pinConfigure l s).responses = s.responses := by
  cases l <;> rfl

@[simp] theorem pinConfigure_host (l : Line) (s : State) : (pinConfigure l s).host = s.host := by
  cases l <;> rfl

@[simp] theorem pinConfigure_draws (l : Line) (s : State) : (pinConfigure l s).draws = s.draws + 2 := by
  cases l <;> rfl

/-! ### `pinWrite` -/

@[simp] theorem pinWrite_cfg (l : Line) (lvl : Level) (s : State) : (pinWrite l lvl s).cfg = s.cfg := by
  simp [pinWrite]

@[simp] theorem pinWrite_mode (l : Line) (lvl : Level) (s : State) : (pinWrite l lvl s).mode = s.mode := by
  simp [pinWrite]

@[simp] theorem pinWrite_n (l : Line) (lvl : Level) (s : State) : (pinWrite l lvl s).n = s.n := by
  simp [pinWrite]

@[simp] theorem pinWrite_buf (l : Line) (lvl : Level) (s : State) : (pinWrite l lvl s).buf = s.buf := by
  simp [pinWrite]

@[simp] theorem pinWrite_dirty (l : Line) (lvl : Level) (s : State) : (pinWrite l lvl s).dirty = s.dirty := by
  simp [pinWrite]

@[simp] theorem pinWrite_seqOp (l : Line) (lvl : Level) (s : State) : (pinWrite l lvl s).seqOp = s.seqOp := by
  simp [pinWrite]

@[simp] theorem pinWrite_upc (l : Line) (lvl : Level) (s : State) : (pinWrite l lvl s).upc = s.upc := by
  simp [pinWrite]

@[simp] theorem pinWrite_lastFault (l : Line) (lvl : Level) (s : State) : (pinWrite l lvl s).lastFault = s.lastFault := by
  simp [pinWrite]

@[simp] theorem pinWrite_faultSeen (l : Line) (lvl : Level) (s : State) : (pinWrite l lvl s).faultSeen = s.faultSeen := by
  simp [pinWrite]

@[simp] theorem pinWrite_resp (l : Line) (lvl : Level) (s : State) : (pinWrite l lvl s).resp = s.resp := by
  simp [pinWrite]

@[simp] theorem pinWrite_lines (l : Line) (lvl : Level) (s : State) : (pinWrite l lvl s).lines = s.lines.set l { s.lines.get l with level := .known lvl } := by
  simp [pinWrite]

@[simp] theorem pinWrite_trace (l : Line) (lvl : Level) (s : State) : (pinWrite l lvl s).trace = s.trace ++ [.write l lvl] := by
  simp [pinWrite]

@[simp] theorem pinWrite_responses (l : Line) (lvl : Level) (s : State) : (pinWrite l lvl s).responses = s.responses := by
  simp [pinWrite]

@[simp] theorem pinWrite_host (l : Line) (lvl : Level) (s : State) : (pinWrite l lvl s).host = s.host := by
  simp [pinWrite]

/-! ### `startSequence` -/

@[simp] theorem startSequence_cfg (op : SeqOp) (s : State) : (startSequence op s).cfg = s.cfg := rfl

@[simp] theorem startSequence_mode (op : SeqOp) (s : State) : (startSequence op s).mode = .busy := rfl

@[simp] theorem startSequence_n (op : SeqOp) (s : State) : (startSequence op s).n = s.n := rfl

@[simp] theorem startSequence_buf (op : SeqOp) (s : State) : (startSequence op s).buf = s.buf := rfl

@[simp] theorem startSequence_dirty (op : SeqOp) (s : State) : (startSequence op s).dirty = s.dirty := rfl

@[simp] theorem startSequence_seqOp (op : SeqOp) (s : State) : (startSequence op s).seqOp = op := rfl

@[simp] theorem startSequence_upc (op : SeqOp) (s : State) : (startSequence op s).upc = 0 := rfl

@[simp] theorem startSequence_lastFault (op : SeqOp) (s : State) : (startSequence op s).lastFault = s.lastFault := rfl

@[simp] theorem startSequence_faultSeen (op : SeqOp) (s : State) : (startSequence op s).faultSeen = s.faultSeen := rfl

@[simp] theorem startSequence_resp (op : SeqOp) (s : State) : (startSequence op s).resp = s.resp := rfl

@[simp] theorem startSequence_lines (op : SeqOp) (s : State) : (startSequence op s).lines = s.lines := rfl

@[simp] theorem startSequence_trace (op : SeqOp) (s : State) : (startSequence op s).trace = s.trace := rfl

@[simp] theorem startSequence_stages (op : SeqOp) (s : State) : (startSequence op s).stages = s.stages := rfl

@[simp] theorem startSequence_outs (op : SeqOp) (s : State) : (startSequence op s).outs = s.outs := rfl

@[simp] theorem startSequence_responses (op : SeqOp) (s : State) : (startSequence op s).responses = s.responses := rfl

@[simp] theorem startSequence_host (op : SeqOp) (s : State) : (startSequence op s).host = s.host := rfl

@[simp] theorem startSequence_draws (op : SeqOp) (s : State) : (startSequence op s).draws = s.draws := rfl

/-! ### `resetBlock` -/

@[simp] theorem resetBlock_cfg (s : State) : (resetBlock s).cfg = s.cfg := rfl

@[simp] theorem resetBlock_mode (s : State) : (resetBlock s).mode = .unconfigured := rfl

@[simp] theorem resetBlock_n (s : State) : (resetBlock s).n = 0 := rfl

@[simp] theorem resetBlock_buf (s : State) : (resetBlock s).buf = [] := rfl

@[simp] theorem resetBlock_dirty (s : State) : (resetBlock s).dirty = false := rfl

@[simp] theorem resetBlock_seqOp (s : State) : (resetBlock s).seqOp = .none := rfl

@[simp] theorem resetBlock_upc (s : State) : (resetBlock s).upc = 0 := rfl

@[simp] theorem resetBlock_lastFault (s : State) : (resetBlock s).lastFault = 0 := rfl

@[simp] theorem resetBlock_faultSeen (s : State) : (resetBlock s).faultSeen = false := rfl

@[simp] theorem resetBlock_resp (s : State) : (resetBlock s).resp = 0 := rfl

@[simp] theorem resetBlock_lines (s : State) : (resetBlock s).lines = ⟨LineState.reset, LineState.reset, LineState.reset⟩ := rfl

@[simp] theorem resetBlock_trace (s : State) : (resetBlock s).trace = [] := rfl

@[simp] theorem resetBlock_stages (s : State) : (resetBlock s).stages = [] := rfl

@[simp] theorem resetBlock_outs (s : State) : (resetBlock s).outs = [] := rfl

@[simp] theorem resetBlock_responses (s : State) : (resetBlock s).responses = [] := rfl

@[simp] theorem resetBlock_host (s : State) : (resetBlock s).host = s.host := rfl

@[simp] theorem resetBlock_draws (s : State) : (resetBlock s).draws = s.draws := rfl

/-! ### `finishSequence` -/

@[simp] theorem finishSequence_cfg (s : State) : (finishSequence s).cfg = s.cfg := rfl

@[simp] theorem finishSequence_mode (s : State) : (finishSequence s).mode = .idle := rfl

@[simp] theorem finishSequence_n (s : State) : (finishSequence s).n = s.n := rfl

@[simp] theorem finishSequence_buf (s : State) : (finishSequence s).buf = s.buf := rfl

@[simp] theorem finishSequence_dirty (s : State) : (finishSequence s).dirty = false := rfl

@[simp] theorem finishSequence_seqOp (s : State) : (finishSequence s).seqOp = .none := rfl

@[simp] theorem finishSequence_upc (s : State) : (finishSequence s).upc = 0 := rfl

@[simp] theorem finishSequence_lastFault (s : State) : (finishSequence s).lastFault = s.lastFault := rfl

@[simp] theorem finishSequence_faultSeen (s : State) : (finishSequence s).faultSeen = s.faultSeen := rfl

@[simp] theorem finishSequence_resp (s : State) : (finishSequence s).resp = responseDone := rfl

@[simp] theorem finishSequence_lines (s : State) : (finishSequence s).lines = s.lines := rfl

@[simp] theorem finishSequence_trace (s : State) : (finishSequence s).trace = s.trace := rfl

@[simp] theorem finishSequence_stages (s : State) : (finishSequence s).stages = s.stages := rfl

@[simp] theorem finishSequence_outs (s : State) : (finishSequence s).outs = s.outs := rfl

@[simp] theorem finishSequence_responses (s : State) : (finishSequence s).responses = s.responses ++ [responseDone] := rfl

@[simp] theorem finishSequence_host (s : State) : (finishSequence s).host = s.host := rfl

@[simp] theorem finishSequence_draws (s : State) : (finishSequence s).draws = s.draws := rfl

/-! ### What the updates leave of the numbers computed from `N` and of the logical outputs -/

@[simp] theorem State.respond_regCount (s : State) (r : Byte) : (s.respond r).regCount = s.regCount := by
  simp [State.regCount]

@[simp] theorem State.respond_outputCount (s : State) (r : Byte) : (s.respond r).outputCount = s.outputCount := by
  simp [State.outputCount]

@[simp] theorem State.respond_out (s : State) (r : Byte) (i : Nat) : (s.respond r).out i = s.out i := by
  simp [State.out]

@[simp] theorem raiseFault_regCount (c : FaultCode) (s : State) : (raiseFault c s).regCount = s.regCount := by
  simp [State.regCount]

@[simp] theorem raiseFault_outputCount (c : FaultCode) (s : State) : (raiseFault c s).outputCount = s.outputCount := by
  simp [State.outputCount]

@[simp] theorem raiseFault_out (c : FaultCode) (s : State) (i : Nat) : (raiseFault c s).out i = s.out i := by
  simp [State.out]

@[simp] theorem State.markDirty_regCount (s : State) : (s.markDirty).regCount = s.regCount := by
  simp [State.regCount]

@[simp] theorem State.markDirty_outputCount (s : State) : (s.markDirty).outputCount = s.outputCount := by
  simp [State.outputCount]

@[simp] theorem State.markDirty_out (s : State) (i : Nat) : (s.markDirty).out i = s.out i := by
  simp [State.out]

@[simp] theorem State.clearDirty_regCount (s : State) : (s.clearDirty).regCount = s.regCount := by
  simp [State.regCount]

@[simp] theorem State.clearDirty_outputCount (s : State) : (s.clearDirty).outputCount = s.outputCount := by
  simp [State.outputCount]

@[simp] theorem State.clearDirty_out (s : State) (i : Nat) : (s.clearDirty).out i = s.out i := by
  simp [State.out]

@[simp] theorem State.setBuf_regCount (s : State) (m : Memory) : (s.setBuf m).regCount = s.regCount := by
  simp [State.regCount]

@[simp] theorem State.setBuf_outputCount (s : State) (m : Memory) : (s.setBuf m).outputCount = s.outputCount := by
  simp [State.outputCount]

@[simp] theorem State.setHost_regCount (s : State) (moves : List HostMove) : (s.setHost moves).regCount = s.regCount := by
  simp [State.regCount]

@[simp] theorem State.setHost_outputCount (s : State) (moves : List HostMove) : (s.setHost moves).outputCount = s.outputCount := by
  simp [State.outputCount]

@[simp] theorem State.setHost_out (s : State) (moves : List HostMove) (i : Nat) : (s.setHost moves).out i = s.out i := by
  simp [State.out]

@[simp] theorem State.nextUpc_regCount (s : State) : (s.nextUpc).regCount = s.regCount := by
  simp [State.regCount]

@[simp] theorem State.nextUpc_outputCount (s : State) : (s.nextUpc).outputCount = s.outputCount := by
  simp [State.outputCount]

@[simp] theorem State.nextUpc_out (s : State) (i : Nat) : (s.nextUpc).out i = s.out i := by
  simp [State.out]

@[simp] theorem State.lineEvent_regCount (s : State) (l : Line) (x : LineState) (e : LineEvent) : (s.lineEvent l x e).regCount = s.regCount := by
  simp [State.regCount]

@[simp] theorem State.lineEvent_outputCount (s : State) (l : Line) (x : LineState) (e : LineEvent) : (s.lineEvent l x e).outputCount = s.outputCount := by
  simp [State.outputCount]

@[simp] theorem State.lineEvent_out (s : State) (l : Line) (x : LineState) (e : LineEvent) (i : Nat) : (s.lineEvent l x e).out i = s.out i := by
  simp [State.out]

@[simp] theorem State.shiftChain_regCount (s : State) : (s.shiftChain).regCount = s.regCount := by
  simp [State.regCount]

@[simp] theorem State.shiftChain_outputCount (s : State) : (s.shiftChain).outputCount = s.outputCount := by
  simp [State.outputCount]

@[simp] theorem State.shiftChain_out (s : State) (i : Nat) : (s.shiftChain).out i = s.out i := by
  simp [State.out]

@[simp] theorem State.chainReact_regCount (s : State) (l : Line) (before lvl : Level) : (s.chainReact l before lvl).regCount = s.regCount := by
  simp [State.regCount]

@[simp] theorem State.chainReact_outputCount (s : State) (l : Line) (before lvl : Level) : (s.chainReact l before lvl).outputCount = s.outputCount := by
  simp [State.outputCount]

@[simp] theorem State.chainReact_out (s : State) (l : Line) (before lvl : Level) (i : Nat) : (s.chainReact l before lvl).out i = s.out i := by
  simp [State.out]

@[simp] theorem State.chainDraw_regCount (s : State) (l : Line) (d : Nat) : (s.chainDraw l d).regCount = s.regCount := by
  simp [State.regCount]

@[simp] theorem State.chainDraw_outputCount (s : State) (l : Line) (d : Nat) : (s.chainDraw l d).outputCount = s.outputCount := by
  simp [State.outputCount]

@[simp] theorem State.chainDraw_out (s : State) (l : Line) (d : Nat) (i : Nat) : (s.chainDraw l d).out i = s.out i := by
  simp [State.out]

@[simp] theorem pinConfigure_regCount (l : Line) (s : State) : (pinConfigure l s).regCount = s.regCount := by
  simp [State.regCount]

@[simp] theorem pinConfigure_outputCount (l : Line) (s : State) : (pinConfigure l s).outputCount = s.outputCount := by
  simp [State.outputCount]

@[simp] theorem pinConfigure_out (l : Line) (s : State) (i : Nat) : (pinConfigure l s).out i = s.out i := by
  simp [State.out]

@[simp] theorem pinWrite_regCount (l : Line) (lvl : Level) (s : State) : (pinWrite l lvl s).regCount = s.regCount := by
  simp [State.regCount]

@[simp] theorem pinWrite_outputCount (l : Line) (lvl : Level) (s : State) : (pinWrite l lvl s).outputCount = s.outputCount := by
  simp [State.outputCount]

@[simp] theorem pinWrite_out (l : Line) (lvl : Level) (s : State) (i : Nat) : (pinWrite l lvl s).out i = s.out i := by
  simp [State.out]

@[simp] theorem startSequence_regCount (op : SeqOp) (s : State) : (startSequence op s).regCount = s.regCount := by
  simp [State.regCount]

@[simp] theorem startSequence_outputCount (op : SeqOp) (s : State) : (startSequence op s).outputCount = s.outputCount := by
  simp [State.outputCount]

@[simp] theorem startSequence_out (op : SeqOp) (s : State) (i : Nat) : (startSequence op s).out i = s.out i := by
  simp [State.out]

@[simp] theorem finishSequence_regCount (s : State) : (finishSequence s).regCount = s.regCount := by
  simp [State.regCount]

@[simp] theorem finishSequence_outputCount (s : State) : (finishSequence s).outputCount = s.outputCount := by
  simp [State.outputCount]

@[simp] theorem finishSequence_out (s : State) (i : Nat) : (finishSequence s).out i = s.out i := by
  simp [State.out]

end Sys2Proof.Machine
end

