-- ==== Sys2Proof/Laws/Ops.lean ====
section
/-! SUPPORT. What each shared operation can do, said once. -/

namespace Sys2Proof.Machine

/-! ## Operands -/

theorem byteIndex_lt {i n : Nat} (h : i < 8 * n) : byteIndex i < n := by
  unfold byteIndex; omega

theorem bitIndex_lt (i : Nat) : bitIndex i < 8 := by
  unfold bitIndex; omega

/-- `updateBit` changes bit `b` only (R110). -/
theorem updateBit_getLsbD (x : Byte) {b : Nat} (v : Bool) (hb : b < 8) {i : Nat} (hi : i < 8) :
    (updateBit x b v).getLsbD i = if i = b then v else x.getLsbD i := by
  by_cases h : i = b
  · subst h
    cases v <;> simp [updateBit, hi]
  · have h1 : ¬ (i - b = 0 ∧ b ≤ i) := by omega
    by_cases hle : b ≤ i
    · have : i - b ≠ 0 := by omega
      cases v <;> simp [updateBit, hi, h, this, Nat.not_lt.mpr hle]
    · cases v <;> simp [updateBit, hi, h, Nat.lt_of_not_le hle]

@[simp] theorem fillByte_getLsbD (v : Bool) {i : Nat} (hi : i < 8) : (fillByte v).getLsbD i = v := by
  cases v
  · simp [fillByte]
  · have : i = 0 ∨ i = 1 ∨ i = 2 ∨ i = 3 ∨ i = 4 ∨ i = 5 ∨ i = 6 ∨ i = 7 := by omega
    rcases this with rfl | rfl | rfl | rfl | rfl | rfl | rfl | rfl <;> decide

/-- The last form of R132: register `k_j`, bit `b_j` is logical output `8N - 1 - j`. -/
theorem sent_position {n j : Nat} (h : j < 8 * n) :
    sentRegister n j = byteIndex (8 * n - 1 - j) ∧ sentBit j = bitIndex (8 * n - 1 - j) := by
  unfold sentRegister sentBit byteIndex bitIndex; omega

theorem sentRegister_lt {n j : Nat} (h : j < 8 * n) : sentRegister n j < n := by
  unfold sentRegister; omega

/-! ## Reading the buffer as logical outputs -/

theorem State.out_congr {s t : State} (h : t.buf = s.buf) (i : Nat) : t.out i = s.out i := by
  simp only [State.out, h]

/-- Logical output `i` after one bit of its register is written (R52, R110). -/
theorem out_write_updateBit {s : State} (h : s.buf.wf = true) (index i : Nat) (v : Bool) :
    (s.setBuf (s.buf.write (byteIndex index)
        (updateBit (s.buf.read (byteIndex index)) (bitIndex index) v))).out i =
      if i = index then v else s.out i := by
  simp only [State.out, State.setBuf_buf, Memory.read_write _ _ _ h]
  by_cases hb : byteIndex i = byteIndex index
  · simp only [hb, if_true, updateBit_getLsbD _ _ (bitIndex_lt index) (bitIndex_lt i)]
    by_cases hi : i = index
    · simp [hi]
    · have : bitIndex i ≠ bitIndex index := by
        unfold byteIndex at hb; unfold bitIndex; omega
      simp [hi, this]
  · have hi : i ≠ index := fun e => hb (by rw [e])
    simp [hb, hi]

/-- Logical output `i` after a fill (R112). -/
theorem out_fill {s : State} (h : s.buf.wf = true) (n i : Nat) (v : Bool) :
    (s.setBuf (s.buf.fill n (fillByte v))).out i =
      if i < 8 * n then v else s.out i := by
  simp only [State.out, State.setBuf_buf, Memory.read_fill _ _ _ h]
  by_cases hi : i < 8 * n
  · simp only [byteIndex_lt hi, hi, if_true, fillByte_getLsbD v (bitIndex_lt i)]
  · have : ¬ byteIndex i < n := by unfold byteIndex; omega
    simp [hi, this]

/-! ## The chain -/

@[simp] theorem shiftStages_length (b : Bool) (l : List Bool) : (shiftStages b l).length = l.length := by
  simp [shiftStages]

/-- `S[0]` takes the bit, `S[i + 1]` takes `S[i]` (R181). -/
theorem shiftStages_getElem? (b : Bool) (l : List Bool) {i : Nat} (hi : i < l.length) :
    (shiftStages b l)[i]? = if i = 0 then some b else l[i - 1]? := by
  rw [shiftStages, List.getElem?_take_of_lt hi]
  cases i <;> simp

@[simp] theorem freeBits_length (d n : Nat) : (freeBits d n).length = 8 * n := by
  simp [freeBits]

@[simp] theorem pinWrite_sdata_stages (lvl : Level) (s : State) : (pinWrite .sdata lvl s).stages = s.stages := rfl
@[simp] theorem pinWrite_sdata_outs (lvl : Level) (s : State) : (pinWrite .sdata lvl s).outs = s.outs := rfl
@[simp] theorem pinWrite_sdata_draws (lvl : Level) (s : State) : (pinWrite .sdata lvl s).draws = s.draws := rfl
@[simp] theorem pinWrite_latch_stages (lvl : Level) (s : State) : (pinWrite .latch lvl s).stages = s.stages := rfl
@[simp] theorem pinWrite_latch_draws (lvl : Level) (s : State) : (pinWrite .latch lvl s).draws = s.draws := rfl
theorem pinWrite_latch_outs (lvl : Level) (s : State) :
    (pinWrite .latch lvl s).outs =
      if isRising s.lines.latch.level.physical lvl then s.stages else s.outs := rfl

@[simp] theorem pinWrite_sclk_outs (lvl : Level) (s : State) : (pinWrite .sclk lvl s).outs = s.outs := by
  simp only [pinWrite, State.chainReact]; split <;> rfl

theorem pinWrite_sclk_stages (lvl : Level) (s : State) :
    (pinWrite .sclk lvl s).stages =
      if isRising s.lines.sclk.level.physical lvl then shiftStages s.sampledBit s.stages else s.stages := by
  cases h : isRising s.lines.sclk.level.physical lvl <;>
    simp only [pinWrite, State.chainReact, Lines.get_sclk, h] <;> rfl

theorem pinWrite_sclk_draws (lvl : Level) (s : State) :
    (pinWrite .sclk lvl s).draws =
      if isRising s.lines.sclk.level.physical lvl then s.draws + s.sampleDraws else s.draws := by
  cases h : isRising s.lines.sclk.level.physical lvl <;>
    simp only [pinWrite, State.chainReact, Lines.get_sclk, h] <;> rfl

@[simp] theorem pinConfigure_sdata_stages (s : State) : (pinConfigure .sdata s).stages = s.stages := rfl
@[simp] theorem pinConfigure_sdata_outs (s : State) : (pinConfigure .sdata s).outs = s.outs := rfl
@[simp] theorem pinConfigure_sclk_stages (s : State) :
    (pinConfigure .sclk s).stages = freeBits (s.draws + 1) s.regCount := rfl
@[simp] theorem pinConfigure_sclk_outs (s : State) : (pinConfigure .sclk s).outs = s.outs := rfl
@[simp] theorem pinConfigure_latch_stages (s : State) : (pinConfigure .latch s).stages = s.stages := rfl
@[simp] theorem pinConfigure_latch_outs (s : State) :
    (pinConfigure .latch s).outs = freeBits (s.draws + 1) s.regCount := rfl

/-- The chain keeps its length under a configuration that finds it `8N` long (R180). -/
theorem pinConfigure_chain_length (l : Line) {s : State} (h : s.stages.length = 8 * s.regCount)
    (h' : s.outs.length = 8 * s.regCount) :
    (pinConfigure l s).stages.length = 8 * s.regCount ∧ (pinConfigure l s).outs.length = 8 * s.regCount := by
  cases l <;> simp [h, h']

/-- The chain keeps its length under every write that finds stages and outputs equally long. -/
theorem pinWrite_chain_length (l : Line) (lvl : Level) {s : State} (h : s.outs.length = s.stages.length) :
    (pinWrite l lvl s).stages.length = s.stages.length ∧
      (pinWrite l lvl s).outs.length = s.outs.length := by
  cases l with
  | sdata => simp
  | sclk => rw [pinWrite_sclk_stages]; split <;> simp
  | latch => rw [pinWrite_latch_outs]; split <;> simp [h]

/-! ## Checked accesses -/

theorem storeByte_of_lt {k : Nat} (v : Byte) {s : State} (f : State → Answer) (h : k < s.cfg.maxRegs) :
    storeByte k v s f = f (s.setBuf (s.buf.write k v)) := by simp [storeByte, h]

theorem loadByte_of_lt {k : Nat} {s : State} (f : Byte → Answer) (h : k < s.cfg.maxRegs) :
    loadByte k s f = f (s.buf.read k) := by simp [loadByte, h]

theorem fillBuffer_of_le (v : Byte) {s : State} (f : State → Answer) (h : s.regCount ≤ s.cfg.maxRegs) :
    fillBuffer v s f = f (s.setBuf (s.buf.fill s.regCount v)) := by simp [fillBuffer, h]

theorem zeroBuffer_of_le {s : State} (f : State → Answer) (h : s.regCount ≤ s.cfg.maxRegs) :
    zeroBuffer s f = f (s.setBuf (s.buf.fill s.regCount (fillByte false))).markDirty := by
  simp [zeroBuffer, fillBuffer_of_le _ _ h]

/-- If a store goes on, the byte exists. -/
theorem storeByte_next {k : Nat} {v : Byte} {s t : State} {f : State → Answer} (h : storeByte k v s f = .next t) :
    k < s.cfg.maxRegs ∧ f (s.setBuf (s.buf.write k v)) = .next t := by
  unfold storeByte at h; split at h
  · exact ⟨‹_›, h⟩
  · cases h

theorem loadByte_next {k : Nat} {s t : State} {f : Byte → Answer} (h : loadByte k s f = .next t) :
    k < s.cfg.maxRegs ∧ f (s.buf.read k) = .next t := by
  unfold loadByte at h; split at h
  · exact ⟨‹_›, h⟩
  · cases h

theorem fillBuffer_next {v : Byte} {s t : State} {f : State → Answer} (h : fillBuffer v s f = .next t) :
    s.regCount ≤ s.cfg.maxRegs ∧ f (s.setBuf (s.buf.fill s.regCount v)) = .next t := by
  unfold fillBuffer at h; split at h
  · exact ⟨‹_›, h⟩
  · cases h

/-! ## The checks a command begins with -/

theorem whenConstructed_busy {s : State} (a : Answer) (h : s.mode = .busy) :
    whenConstructed s a = .fault .commandWhileBusy := by simp [whenConstructed, whenReady, h]

theorem whenConstructed_unconfigured {s : State} (a : Answer) (h : s.mode = .unconfigured) :
    whenConstructed s a = .next (raiseFault .notConstructed s) := by
  simp [whenConstructed, whenReady, faulted, h]

theorem whenConstructed_idle {s : State} (a : Answer) (h : s.mode = .idle) : whenConstructed s a = a := by
  simp [whenConstructed, whenReady, h]

theorem whenUnconfigured_busy {s : State} (a : Answer) (h : s.mode = .busy) :
    whenUnconfigured s a = .fault .commandWhileBusy := by simp [whenUnconfigured, whenReady, h]

theorem whenUnconfigured_unconfigured {s : State} (a : Answer) (h : s.mode = .unconfigured) :
    whenUnconfigured s a = a := by simp [whenUnconfigured, whenReady, h]

theorem whenUnconfigured_idle {s : State} (a : Answer) (h : s.mode = .idle) :
    whenUnconfigured s a = .next (raiseFault .alreadyConstructed s) := by
  simp [whenUnconfigured, whenReady, faulted, h]

/-- A command that needs a construction goes on in IDLE, or is the fault of R165. -/
theorem whenConstructed_next {s t : State} {a : Answer} (h : whenConstructed s a = .next t) :
    (s.mode = .idle ∧ a = .next t) ∨ (s.mode = .unconfigured ∧ t = raiseFault .notConstructed s) := by
  cases hm : s.mode with
  | busy => rw [whenConstructed_busy a hm] at h; cases h
  | unconfigured =>
    rw [whenConstructed_unconfigured a hm] at h
    cases h
    exact Or.inr ⟨rfl, rfl⟩
  | idle => rw [whenConstructed_idle a hm] at h; exact Or.inl ⟨rfl, h⟩

/-- CONSTRUCT goes on in UNCONFIGURED, or is the fault of R166. -/
theorem whenUnconfigured_next {s t : State} {a : Answer} (h : whenUnconfigured s a = .next t) :
    (s.mode = .unconfigured ∧ a = .next t) ∨ (s.mode = .idle ∧ t = raiseFault .alreadyConstructed s) := by
  cases hm : s.mode with
  | busy => rw [whenUnconfigured_busy a hm] at h; cases h
  | unconfigured => rw [whenUnconfigured_unconfigured a hm] at h; exact Or.inl ⟨rfl, h⟩
  | idle =>
    rw [whenUnconfigured_idle a hm] at h
    cases h
    exact Or.inr ⟨rfl, rfl⟩

/-! ## Responses (R71) -/

@[simp] theorem responseCode_responseWord (q : Bool) (c : BitVec 4) : responseCode (responseWord q c) = c := by
  cases q <;> revert c <;> decide

@[simp] theorem responseQ_responseWord (q : Bool) (c : BitVec 4) : responseQ (responseWord q c) = q := by
  cases q <;> revert c <;> decide

/-! ## The table of R131, row by row -/

theorem transmitAct_first (n : Nat) : transmitAct n 0 = some (.write .latch .low) := by simp [transmitAct]

theorem transmitAct_clockLow {n j : Nat} (h : j < 8 * n) :
    transmitAct n (1 + 3 * j) = some (.write .sclk .low) := by
  have h1 : 1 + 3 * j ≤ 24 * n := by omega
  simp [transmitAct, h1]

theorem transmitAct_sendBit {n j : Nat} (h : j < 8 * n) : transmitAct n (2 + 3 * j) = some (.sendBit j) := by
  have h1 : 2 + 3 * j ≤ 24 * n := by omega
  have h2 : (1 + 3 * j) / 3 = j := by omega
  simp [transmitAct, h1, h2]

theorem transmitAct_clockHigh {n j : Nat} (h : j < 8 * n) :
    transmitAct n (3 + 3 * j) = some (.write .sclk .high) := by
  have h1 : 3 + 3 * j ≤ 24 * n := by omega
  simp [transmitAct, h1]

theorem transmitAct_latch (n : Nat) : transmitAct n (24 * n + 1) = some (.write .latch .high) := by
  simp [transmitAct]

theorem transmitAct_finish (n : Nat) : transmitAct n (24 * n + 2) = some .finish := by
  simp [transmitAct]

/-- Every number is a row of the table or lies past it. -/
theorem transmitStep_cases (n k : Nat) :
    k = 0 ∨ (∃ j, j < 8 * n ∧ k = 1 + 3 * j) ∨ (∃ j, j < 8 * n ∧ k = 2 + 3 * j) ∨
      (∃ j, j < 8 * n ∧ k = 3 + 3 * j) ∨ k = 24 * n + 1 ∨ k = 24 * n + 2 ∨ 24 * n + 2 < k := by
  by_cases h0 : k = 0
  · exact Or.inl h0
  · by_cases h1 : k ≤ 24 * n
    · have : (k - 1) % 3 = 0 ∨ (k - 1) % 3 = 1 ∨ (k - 1) % 3 = 2 := by omega
      rcases this with h | h | h
      · exact Or.inr (Or.inl ⟨(k - 1) / 3, by omega, by omega⟩)
      · exact Or.inr (Or.inr (Or.inl ⟨(k - 1) / 3, by omega, by omega⟩))
      · exact Or.inr (Or.inr (Or.inr (Or.inl ⟨(k - 1) / 3, by omega, by omega⟩)))
    · refine Or.inr (Or.inr (Or.inr (Or.inr ?_)))
      omega

end Sys2Proof.Machine
end

