-- ==== Sys2Proof/Laws/PerInstr.lean ====
section
/-! SUPPORT. One statement about every command as syntax: the fields of its word (R70-R76). -/

namespace Sys2Proof.Laws.FieldBits

/-- The number OP of a command's word (R72). -/
def opNumber : Instr → Nat
  | .construct _ => 0
  | .setpin _ _ => 1
  | .setall _ => 2
  | .clear => 3
  | .transmit => 4
  | .query => 5

/-- The number ARG of a command's word (R73, R75). -/
def argNumber : Instr → Nat
  | .construct n => n
  | .setpin index _ => index
  | .setall _ => 0
  | .clear => 0
  | .transmit => 0
  | .query => 0

/-- The bit V of a command's word (R73, R76). -/
def valueBit : Instr → Bool
  | .construct _ => false
  | .setpin _ value => value
  | .setall value => value
  | .clear => false
  | .transmit => false
  | .query => false

/-- The word of a well-formed command holds the command's number, its operands, and zeros. -/
def Statement (i : Instr) : Prop :=
  i.WellFormed →
    (encode i).op.toNat = opNumber i ∧ (encode i).arg.toNat = argNumber i ∧ (encode i).v = valueBit i ∧
      (encode i).rz1 = 0 ∧ (encode i).rz2 = 0

theorem construct (n : Nat) : Statement (.construct n) := by
  intro h
  simp [Instr.WellFormed, Instr.wellFormed] at h
  simp [encode, opNumber, argNumber, valueBit, h]

theorem setpin (index : Nat) (value : Bool) : Statement (.setpin index value) := by
  intro h
  simp [Instr.WellFormed, Instr.wellFormed] at h
  simp [encode, opNumber, argNumber, valueBit, h]

theorem setall (value : Bool) : Statement (.setall value) := by
  intro _
  simp [encode, opNumber, argNumber, valueBit]

theorem clear : Statement .clear := by
  intro _
  simp [encode, opNumber, argNumber, valueBit]

theorem transmit : Statement .transmit := by
  intro _
  simp [encode, opNumber, argNumber, valueBit]

theorem query : Statement .query := by
  intro _
  simp [encode, opNumber, argNumber, valueBit]

end Sys2Proof.Laws.FieldBits
end

