-- ==== Sys2Proof/Laws/Step.lean ====
section
/-! SUPPORT. What one step can do, said once: the cases of a step, of a micro-step and of a command. -/

namespace Sys2Proof.Machine

/-! ## A step, by the host's next move and the mode -/

theorem step_of_reset {s : State} {rest : List HostMove} (h : s.host = .reset :: rest) :
    step s = .next (resetBlock (s.setHost rest)) := by
  simp [step, stepMachine, h]

theorem step_of_busy {s : State} (hr : ∀ rest, s.host ≠ .reset :: rest) (h : s.mode = .busy) :
    step s = microStep (s.setHost (movesAfterBusy s.host)) := by
  unfold step stepMachine
  split
  · next rest e => exact absurd e (hr rest)
  · simp [h]

theorem step_of_ready {s : State} (hr : ∀ rest, s.host ≠ .reset :: rest) (h : s.mode ≠ .busy) :
    step s = readyStep s := by
  unfold step stepMachine
  split
  · next rest e => exact absurd e (hr rest)
  · split
    · next e => exact absurd e h
    · rfl

theorem readyStep_of_present {s : State} {w : Word} {rest : List HostMove} (h : s.host = .present w :: rest) :
    readyStep s = acceptWord w (s.setHost rest) := by
  simp [readyStep, h]

theorem readyStep_of_wait {s : State} {rest : List HostMove} (h : s.host = .wait :: rest) :
    readyStep s = .next (s.setHost rest) := by
  simp [readyStep, h]

theorem readyStep_of_nil {s : State} (h : s.host = []) : readyStep s = .next s := by
  simp [readyStep, h]

/-- The cases of a step that answers a next state. -/
theorem step_next {s t : State} (h : step s = .next t) :
    (∃ rest, s.host = .reset :: rest ∧ t = resetBlock (s.setHost rest)) ∨
    ((∀ rest, s.host ≠ .reset :: rest) ∧ s.mode = .busy ∧
      microStep (s.setHost (movesAfterBusy s.host)) = .next t) ∨
    (∃ w rest, s.host = .present w :: rest ∧ s.mode ≠ .busy ∧ acceptWord w (s.setHost rest) = .next t) ∨
    (∃ rest, s.host = .wait :: rest ∧ s.mode ≠ .busy ∧ t = s.setHost rest) ∨
    (s.host = [] ∧ s.mode ≠ .busy ∧ t = s) := by
  cases hh : s.host with
  | nil =>
    have hr : ∀ rest, s.host ≠ .reset :: rest := by simp [hh]
    by_cases hm : s.mode = .busy
    · rw [step_of_busy hr hm, hh] at h
      exact Or.inr (Or.inl ⟨by simp, hm, h⟩)
    · rw [step_of_ready hr hm, readyStep_of_nil hh] at h
      cases h
      exact Or.inr (Or.inr (Or.inr (Or.inr ⟨rfl, hm, rfl⟩)))
  | cons m rest =>
    cases m with
    | reset =>
      rw [step_of_reset hh] at h
      cases h
      exact Or.inl ⟨rest, rfl, rfl⟩
    | wait =>
      have hr : ∀ r, s.host ≠ .reset :: r := by simp [hh]
      by_cases hm : s.mode = .busy
      · rw [step_of_busy hr hm, hh] at h
        exact Or.inr (Or.inl ⟨by simp, hm, h⟩)
      · rw [step_of_ready hr hm, readyStep_of_wait hh] at h
        cases h
        exact Or.inr (Or.inr (Or.inr (Or.inl ⟨rest, rfl, hm, rfl⟩)))
    | present w =>
      have hr : ∀ r, s.host ≠ .reset :: r := by simp [hh]
      by_cases hm : s.mode = .busy
      · rw [step_of_busy hr hm, hh] at h
        exact Or.inr (Or.inl ⟨by simp, hm, h⟩)
      · rw [step_of_ready hr hm, readyStep_of_present hh] at h
        exact Or.inr (Or.inr (Or.inl ⟨w, rest, rfl, hm, h⟩))

/-! ## A micro-step -/

theorem microStep_of_act {s : State} {a : MicroAct} (h : currentAct s = some a) : microStep s = runAct a s := by
  simp [microStep, h]

/-- A micro-step that answers a next state runs the action its counter names. -/
theorem microStep_next {s t : State} (h : microStep s = .next t) :
    ∃ a, currentAct s = some a ∧ runAct a s = .next t := by
  unfold microStep at h
  split at h
  · next a e => exact ⟨a, e, h⟩
  · cases h

/-- The actions of a micro-step that answers a next state. -/
theorem runAct_next {a : MicroAct} {s t : State} (h : runAct a s = .next t) :
    (∃ l, a = .configure l ∧ t = (pinConfigure l s).nextUpc) ∨
    (a = .zeroBuffer ∧ s.regCount ≤ s.cfg.maxRegs ∧
      t = (s.setBuf (s.buf.fill s.regCount (fillByte false))).markDirty.nextUpc) ∨
    (∃ l lvl, a = .write l lvl ∧ t = (pinWrite l lvl s).nextUpc) ∨
    (∃ j, a = .sendBit j ∧ sentRegister s.regCount j < s.cfg.maxRegs ∧
      t = (pinWrite .sdata (levelOf ((s.buf.read (sentRegister s.regCount j)).getLsbD (sentBit j))) s).nextUpc) ∨
    (a = .finish ∧ t = finishSequence s) := by
  cases a with
  | configure l =>
    simp only [runAct, advance, Host.Outcome.next.injEq] at h
    exact Or.inl ⟨l, rfl, h.symm⟩
  | zeroBuffer =>
    simp only [runAct, zeroBuffer] at h
    obtain ⟨hle, h⟩ := fillBuffer_next h
    simp only [advance, Host.Outcome.next.injEq] at h
    exact Or.inr (Or.inl ⟨rfl, hle, h.symm⟩)
  | write l lvl =>
    simp only [runAct, advance, Host.Outcome.next.injEq] at h
    exact Or.inr (Or.inr (Or.inl ⟨l, lvl, rfl, h.symm⟩))
  | sendBit j =>
    simp only [runAct] at h
    obtain ⟨hlt, h⟩ := loadByte_next h
    simp only [advance, Host.Outcome.next.injEq] at h
    exact Or.inr (Or.inr (Or.inr (Or.inl ⟨j, rfl, hlt, h.symm⟩)))
  | finish =>
    simp only [runAct, Host.Outcome.next.injEq] at h
    exact Or.inr (Or.inr (Or.inr (Or.inr ⟨rfl, h.symm⟩)))

/-! ## A command, by what it can answer -/

theorem execSetpin_next {index : Nat} {value : Bool} {s t : State} (h : execSetpin index value s = .next t) :
    (s.mode = .unconfigured ∧ t = raiseFault .notConstructed s) ∨
    (s.mode = .idle ∧ s.outputCount ≤ index ∧ t = raiseFault .indexOutOfRange s) ∨
    (s.mode = .idle ∧ index < s.outputCount ∧ byteIndex index < s.cfg.maxRegs ∧
      t = (s.setBuf (s.buf.write (byteIndex index)
        (updateBit (s.buf.read (byteIndex index)) (bitIndex index) value))).markDirty.respond responseDone) := by
  rcases whenConstructed_next h with ⟨hm, h⟩ | ⟨hm, h⟩
  · split at h
    · next hle =>
      simp only [faulted, Host.Outcome.next.injEq] at h
      exact Or.inr (Or.inl ⟨hm, hle, h.symm⟩)
    · next hle =>
      obtain ⟨_, h⟩ := loadByte_next h
      obtain ⟨hlt, h⟩ := storeByte_next h
      simp only [completed, Host.Outcome.next.injEq] at h
      exact Or.inr (Or.inr ⟨hm, by omega, hlt, h.symm⟩)
  · exact Or.inl ⟨hm, h⟩

theorem execSetall_next {value : Bool} {s t : State} (h : execSetall value s = .next t) :
    (s.mode = .unconfigured ∧ t = raiseFault .notConstructed s) ∨
    (s.mode = .idle ∧ s.regCount ≤ s.cfg.maxRegs ∧
      t = (s.setBuf (s.buf.fill s.regCount (fillByte value))).markDirty.respond responseDone) := by
  rcases whenConstructed_next h with ⟨hm, h⟩ | ⟨hm, h⟩
  · obtain ⟨hle, h⟩ := fillBuffer_next h
    simp only [completed, Host.Outcome.next.injEq] at h
    exact Or.inr ⟨hm, hle, h.symm⟩
  · exact Or.inl ⟨hm, h⟩

theorem execClear_next {s t : State} (h : execClear s = .next t) :
    (s.mode = .unconfigured ∧ t = raiseFault .notConstructed s) ∨
    (s.mode = .idle ∧ s.regCount ≤ s.cfg.maxRegs ∧
      t = (s.setBuf (s.buf.fill s.regCount (fillByte false))).markDirty.respond responseDone) := by
  rcases whenConstructed_next h with ⟨hm, h⟩ | ⟨hm, h⟩
  · obtain ⟨hle, h⟩ := fillBuffer_next h
    simp only [completed, Host.Outcome.next.injEq] at h
    exact Or.inr ⟨hm, hle, h.symm⟩
  · exact Or.inl ⟨hm, h⟩

theorem execTransmit_next {s t : State} (h : execTransmit s = .next t) :
    (s.mode = .unconfigured ∧ t = raiseFault .notConstructed s) ∨
    (s.mode = .idle ∧ t = startSequence .transmit s) := by
  rcases whenConstructed_next h with ⟨hm, h⟩ | ⟨hm, h⟩
  · simp only [Host.Outcome.next.injEq] at h
    exact Or.inr ⟨hm, h.symm⟩
  · exact Or.inl ⟨hm, h⟩

theorem execQuery_next {s t : State} (h : execQuery s = .next t) :
    (s.mode = .unconfigured ∧ t = raiseFault .notConstructed s) ∨
    (s.mode = .idle ∧ t = s.respond (responseWord s.dirty 0)) := by
  rcases whenConstructed_next h with ⟨hm, h⟩ | ⟨hm, h⟩
  · simp only [Host.Outcome.next.injEq] at h
    exact Or.inr ⟨hm, h.symm⟩
  · exact Or.inl ⟨hm, h⟩

theorem execConstruct_next {n : Nat} {s t : State} (h : execConstruct n s = .next t) :
    (s.mode = .idle ∧ t = raiseFault .alreadyConstructed s) ∨
    (s.mode = .unconfigured ∧ legalCount s.cfg n = false ∧ t = raiseFault .configurationError s) ∨
    (s.mode = .unconfigured ∧ legalCount s.cfg n = true ∧
      t = startSequence .construct (s.setCount n)) := by
  rcases whenUnconfigured_next h with ⟨hm, h⟩ | ⟨hm, h⟩
  · split at h
    · next hl =>
      simp only [Host.Outcome.next.injEq] at h
      exact Or.inr (Or.inr ⟨hm, hl, h.symm⟩)
    · next hl =>
      simp only [faulted, Host.Outcome.next.injEq] at h
      exact Or.inr (Or.inl ⟨hm, by simpa using hl, h.symm⟩)
  · exact Or.inl ⟨hm, h⟩

/-- An accepted word is a command's meaning or the fault of R164. -/
theorem acceptWord_next {w : Word} {s t : State} (h : acceptWord w s = .next t) :
    (∃ i, decode w = .command i ∧ exec i s = .next t) ∨
      (∃ why, decode w = .illegal why ∧ t = raiseFault .illegalCommand s) := by
  unfold acceptWord at h
  split at h
  · next i e => exact Or.inl ⟨i, e, h⟩
  · next why e =>
    simp only [faulted, Host.Outcome.next.injEq] at h
    exact Or.inr ⟨why, e, h.symm⟩

end Sys2Proof.Machine
end

