-- ==== Sys2Proof/Laws/Run.lean ====
section
/-! SUPPORT. Runs of several steps, and the events of a transmission by position (R131). -/

namespace Sys2Proof.Safety

open Sys2Proof.Machine

/-- A run of `a + b` steps is a run of `a`, then one of `b`. -/
theorem runSteps_add (a b : Nat) (s : State) :
    runSteps (a + b) s =
      match runSteps a s with
      | .next t => runSteps b t
      | .fault f => .fault f
      | .refused r => .refused r := by
  induction a generalizing s with
  | zero => simp [runSteps]
  | succ a ih =>
    rw [show a + 1 + b = (a + b) + 1 by omega]
    simp only [runSteps]
    cases step s <;> simp [ih]

/-- A step before a run. -/
theorem runSteps_of_step {s t : State} (h : step s = .next t) (k : Nat) : runSteps (k + 1) s = runSteps k t := by
  simp [runSteps, h]

/-- A step after a run. -/
theorem runSteps_succ {k : Nat} {s t : State} (h : runSteps k s = .next t) : runSteps (k + 1) s = step t := by
  rw [runSteps_add, h]
  simp only [runSteps]
  cases step t <;> rfl

/-- The bits' events: three for each bit, in the order of R131. -/
theorem bitsEvents_get (f : Nat → Bool) (m : Nat) :
    ((List.range m).flatMap fun j => bitEvents (f j)).length = 3 * m ∧
      ∀ j < m,
        ((List.range m).flatMap fun j => bitEvents (f j))[3 * j]? = some (.write .sclk .low) ∧
        ((List.range m).flatMap fun j => bitEvents (f j))[3 * j + 1]? = some (.write .sdata (levelOf (f j))) ∧
        ((List.range m).flatMap fun j => bitEvents (f j))[3 * j + 2]? = some (.write .sclk .high) := by
  induction m with
  | zero => simp
  | succ m ih =>
    obtain ⟨hl, ih⟩ := ih
    have e : (List.flatMap (fun j => bitEvents (f j)) [m]) = bitEvents (f m) := by simp
    rw [List.range_succ, List.flatMap_append, e]
    refine ⟨by simp [bitEvents]; omega, fun j hj => ?_⟩
    by_cases hjm : j < m
    · rw [List.getElem?_append_left (by omega), List.getElem?_append_left (by omega),
        List.getElem?_append_left (by omega)]
      exact ih j hjm
    · obtain rfl : j = m := by omega
      rw [List.getElem?_append_right (by omega), List.getElem?_append_right (by omega),
        List.getElem?_append_right (by omega), hl]
      simp [bitEvents]

/-- Event `k` of a transmission is the write of micro-step `k` (R131). -/
theorem transmitEvents_get (n : Nat) (out : Nat → Bool) :
    (transmitEvents n out)[0]? = some (.write .latch .low) ∧
      (∀ j < 8 * n, (transmitEvents n out)[1 + 3 * j]? = some (.write .sclk .low)) ∧
      (∀ j < 8 * n, (transmitEvents n out)[2 + 3 * j]? = some (.write .sdata (levelOf (out (8 * n - 1 - j))))) ∧
      (∀ j < 8 * n, (transmitEvents n out)[3 + 3 * j]? = some (.write .sclk .high)) ∧
      (transmitEvents n out)[24 * n + 1]? = some (.write .latch .high) := by
  obtain ⟨hl, hg⟩ := bitsEvents_get (fun j => out (8 * n - 1 - j)) (8 * n)
  unfold transmitEvents
  refine ⟨rfl, fun j hj => ?_, fun j hj => ?_, fun j hj => ?_, ?_⟩
  · rw [show 1 + 3 * j = 3 * j + 1 by omega, List.getElem?_cons_succ, List.getElem?_append_left (by omega)]
    exact (hg j hj).1
  · rw [show 2 + 3 * j = 3 * j + 1 + 1 by omega, List.getElem?_cons_succ, List.getElem?_append_left (by omega)]
    exact (hg j hj).2.1
  · rw [show 3 + 3 * j = 3 * j + 2 + 1 by omega, List.getElem?_cons_succ, List.getElem?_append_left (by omega)]
    exact (hg j hj).2.2
  · rw [List.getElem?_cons_succ, List.getElem?_append_right (by omega), hl, show 24 * n - 3 * (8 * n) = 0 by omega]
    rfl

end Sys2Proof.Safety
end

