-- ==== Sys2Proof/Laws/Safety.lean ====
section
/-! SUPPORT. The parts of the invariant, by mode, and that it reads only the fields it names. -/

namespace Sys2Proof.Safety

open Sys2Proof.Machine

theorem modeOk_unconfigured {s : State} (h : s.mode = .unconfigured) :
    ModeOk s ↔ s.regCount = 0 ∧ s.seqOp = .none ∧ s.upc = 0 ∧ s.dirty = false ∧ s.trace = [] := by
  simp [ModeOk, h]

theorem modeOk_idle {s : State} (h : s.mode = .idle) :
    ModeOk s ↔ 1 ≤ s.regCount ∧ s.regCount ≤ s.cfg.maxRegs ∧ s.seqOp = .none ∧ s.upc = 0 := by
  simp [ModeOk, h]

theorem modeOk_busy {s : State} (h : s.mode = .busy) :
    ModeOk s ↔ 1 ≤ s.regCount ∧ s.regCount ≤ s.cfg.maxRegs ∧
      ((s.seqOp = .transmit ∧ s.upc ≤ 24 * s.regCount + 2) ∨
        (s.seqOp = .construct ∧ s.upc ≤ 24 * s.regCount + 6)) := by
  simp [ModeOk, h]

theorem linesOk_unconfigured {s : State} (h : s.mode = .unconfigured) :
    LinesOk s ↔ s.lines.sdata.cfg = .z ∧ s.lines.sclk.cfg = .z ∧ s.lines.latch.cfg = .z := by
  simp [LinesOk, h]

theorem linesOk_idle {s : State} (h : s.mode = .idle) :
    LinesOk s ↔ AllOut s.lines ∧ s.lines.latch.level = .known .high ∧ s.lines.sclk.level = .known .high ∧
      ∃ lvl, s.lines.sdata.level = .known lvl := by
  simp [LinesOk, h]

theorem linesOk_prefix {s : State} (h : s.mode = .busy) (hk : transmitAt s = none) :
    LinesOk s ↔ s.lines.sdata.cfg = (if 0 < s.upc then .out else .z) ∧
      s.lines.sclk.cfg = (if 1 < s.upc then .out else .z) ∧
      s.lines.latch.cfg = (if 2 < s.upc then .out else .z) := by
  simp [LinesOk, h, hk]

theorem linesOk_transmit {s : State} {k : Nat} (h : s.mode = .busy) (hk : transmitAt s = some k) :
    LinesOk s ↔ AllOut s.lines ∧ TransmitLines s k := by
  simp [LinesOk, h, hk]

@[simp] theorem transmitAt_of_none {s : State} (h : s.seqOp = .none) : transmitAt s = none := by
  simp [transmitAt, h]

/-- Raising a fault writes its code's record and nothing else (R160). -/
theorem raiseFault_eq_recordFault (c : FaultCode) (s : State) : raiseFault c s = recordFault c.code s := by
  cases c <;> rfl

/-- A configuration that is not refused leaves room for every `8N` in the 16-bit fields (R5). -/
theorem configOk_maxRegs {c : Config} (h : configOk c = true) : 1 ≤ c.maxRegs ∧ c.maxRegs ≤ 8191 := by
  simp [configOk] at h; omega

/-- A legal register count is held by `N` whole (R23, R101). -/
theorem setCount_regCount {s : State} {n : Nat} (h : configOk s.cfg = true) (hl : legalCount s.cfg n = true) :
    (s.setCount n).regCount = n ∧ 1 ≤ n ∧ n ≤ s.cfg.maxRegs := by
  have := configOk_maxRegs h
  simp [legalCount] at hl
  refine ⟨?_, hl⟩
  simp [State.regCount]
  omega

/-- The invariant reads only these fields, and the record. -/
theorem Inv.of_fields {s t : State} (h : Inv s) (hcfg : t.cfg = s.cfg) (hmode : t.mode = s.mode) (hn : t.n = s.n)
    (hbuf : t.buf = s.buf) (hdirty : t.dirty = s.dirty) (hseq : t.seqOp = s.seqOp) (hupc : t.upc = s.upc)
    (hlines : t.lines = s.lines) (htrace : t.trace = s.trace) (hstages : t.stages = s.stages)
    (houts : t.outs = s.outs) (hrec : RecordOk t) : Inv t := by
  have e1 : t.regCount = s.regCount := by simp [State.regCount, hn]
  have e2 : t.outputCount = s.outputCount := by simp [State.outputCount, e1]
  have e3 : ∀ i, t.out i = s.out i := fun i => State.out_congr hbuf i
  have e4 : transmitAt t = transmitAt s := by simp [transmitAt, hseq, hupc]
  refine ⟨by simpa [hcfg] using h.config, ?_, ?_, hrec, ?_, ?_, ?_, ?_⟩
  · simpa [ModeOk, hmode, e1, hseq, hupc, hdirty, htrace, hcfg] using h.modes
  · simpa [BufferOk, hbuf, hcfg] using h.buffer
  · simpa [ChainOk, hstages, houts, e2] using h.chain
  · simpa [LinesOk, hmode, hlines, e4, hupc, TransmitLines, e1, e2, e3] using h.lines
  · simpa [ShiftedOk, e4, e1, e2, e3, hstages, houts] using h.shifted
  · simpa [SettledOk, hmode, hstages, houts, hdirty, hlines, e2, e3] using h.settled

end Sys2Proof.Safety
end

