-- ==== Sys2Proof/Tests/Slice0.lean ====
section
/-! SUPPORT. Tests: terms the well-formedness check refuses, words written out from the spec's encodings, one step of each
command from the spec's worked examples (95_test_vectors.md, 40_construct.md to 43_query.md), and for each statement
with hypotheses a concrete state and operands that meet them all. -/

namespace Sys2Proof.Tests

open Sys2Proof.Machine Sys2Proof.Safety

/-! ## WellFormed: one ill-formed term for each check -/

theorem test_construct_operand_too_wide : ¬ (Instr.construct 65536).WellFormed := by decide
theorem test_setpin_operand_too_wide : ¬ (Instr.setpin 65536 true).WellFormed := by decide
theorem test_widest_operands_are_well_formed :
    (Instr.construct 65535).WellFormed ∧ (Instr.setpin 65535 false).WellFormed := by decide

/-! ## Decoding: words written field by field, {OP, RZ1, V, RZ2, ARG} (R70-R73) -/

theorem test_decode_construct :
    decode (0b0000#4 ++ 0b000#3 ++ 0b0#1 ++ 0b00000000#8 ++ 0b0000000000011001#16) =
      .command (.construct 25) := by decide
theorem test_decode_setpin :
    decode (0b0001#4 ++ 0b000#3 ++ 0b1#1 ++ 0b00000000#8 ++ 0b0000000000001001#16) =
      .command (.setpin 9 true) := by decide
theorem test_decode_setpin_top_index :
    decode (0b0001#4 ++ 0b000#3 ++ 0b0#1 ++ 0b00000000#8 ++ 0b1000000000000001#16) =
      .command (.setpin 32769 false) := by decide
theorem test_decode_setall :
    decode (0b0010#4 ++ 0b000#3 ++ 0b1#1 ++ 0b00000000#8 ++ 0b0000000000000000#16) =
      .command (.setall true) := by decide
theorem test_decode_clear :
    decode (0b0011#4 ++ 0b000#3 ++ 0b0#1 ++ 0b00000000#8 ++ 0b0000000000000000#16) = .command .clear := by decide
theorem test_decode_transmit :
    decode (0b0100#4 ++ 0b000#3 ++ 0b0#1 ++ 0b00000000#8 ++ 0b0000000000000000#16) = .command .transmit := by decide
theorem test_decode_query :
    decode (0b0101#4 ++ 0b000#3 ++ 0b0#1 ++ 0b00000000#8 ++ 0b0000000000000000#16) = .command .query := by decide
theorem test_decode_reserved_bit :
    decode (0b0001#4 ++ 0b001#3 ++ 0b1#1 ++ 0b00000000#8 ++ 0b0000000000000000#16) =
      .illegal .reservedBits := by decide
theorem test_decode_reserved_op :
    decode (0b0110#4 ++ 0b000#3 ++ 0b0#1 ++ 0b00000000#8 ++ 0b0000000000000000#16) =
      .illegal .reservedOp := by decide
theorem test_decode_construct_with_v :
    decode (0b0000#4 ++ 0b000#3 ++ 0b1#1 ++ 0b00000000#8 ++ 0b0000000000000001#16) =
      .illegal .mustBeZero := by decide

/-! ## The assembler (R80) -/

theorem test_assemble_setpin :
    assembleLine "setpin 0x9, true ; a comment".toList = .ok (some 0x11000009#32) := by rfl
theorem test_assemble_refuses_wide_operand :
    assembleLine "construct 65536".toList = .error .operandTooWide := by rfl

/-! ## Small states -/

/-- A block of `MAX_REGS = 25` after `construct n`, with a buffer, a dirty flag and the host's moves. -/
def constructed (n : Nat) (buf : Memory) (dirty : Bool) (moves : List HostMove) : State :=
  { State.reset with
    mode := .idle
    n := BitVec.ofNat 16 n
    buf := buf
    dirty := dirty
    lines :=
      { sdata := { cfg := .out, level := .known .low }
        sclk := { cfg := .out, level := .known .high }
        latch := { cfg := .out, level := .known .high } }
    stages := List.replicate (8 * n) false
    outs := List.replicate (8 * n) false
    host := moves }

/-- The same block running a sequence, the lines still as the last transmission left them. -/
def running (op : SeqOp) (upc n : Nat) (buf : Memory) (moves : List HostMove) : State :=
  { constructed n buf true moves with mode := .busy, seqOp := op, upc := upc }

/-- Right after reset, with the host's moves. -/
def fresh (moves : List HostMove) : State := { State.reset with host := moves }

/-- A block in the construction of one register, lines still in `Z`. -/
def constructing (upc : Nat) (moves : List HostMove) : State :=
  { fresh moves with
    mode := .busy, seqOp := .construct, upc := upc, n := 1
    stages := List.replicate 8 true, outs := List.replicate 8 true }

/-- A block in the middle of the first bit of a transmission: SCLK has been driven LOW and SDATA set. -/
def shifting (upc : Nat) : State :=
  { running .transmit upc 1 [(0, 0x80)] [] with
    lines :=
      { sdata := { cfg := .out, level := .known .high }
        sclk := { cfg := .out, level := .known .low }
        latch := { cfg := .out, level := .known .low } } }

/-- What an answer's next state satisfies. -/
def answers (a : Answer) (p : State → Bool) : Bool :=
  match a with
  | .next t => p t
  | _ => false

/-! ## One step of each command, from the spec's examples -/

/-- `construct 25` from reset (95_test_vectors.md): accepted. -/
theorem test_construct_accepted :
    answers (exec (.construct 25) State.reset)
      (fun t => t.mode = .busy && t.seqOp = .construct && t.regCount = 25 && t.upc = 0 && t.trace = []) = true := by
  decide

/-- `construct 0` and `construct 26` (R162): ConfigurationError. -/
theorem test_construct_out_of_range :
    answers (exec (.construct 0) State.reset) (fun t => t.lastFault = 1 && t.resp = 0x01 && t.n = 0) = true ∧
    answers (exec (.construct 26) State.reset) (fun t => t.lastFault = 1 && t.resp = 0x01 && t.n = 0) = true := by
  decide

/-- `setpin 9, 1` on `[0x00, 0x00]` (R110, worked example). -/
theorem test_setpin_example :
    answers (exec (.setpin 9 true) (constructed 2 [] false []))
      (fun t => t.buffer = [0x00, 0x02] && t.dirty && t.resp = 0x00) = true := by decide

/-- `setpin 7, 0` on `[0xFF, 0xFF]`: only the top bit of the first byte (R110, the byte boundary). -/
theorem test_setpin_byte_boundary :
    answers (exec (.setpin 7 false) (constructed 2 [(0, 0xFF), (1, 0xFF)] false []))
      (fun t => t.buffer = [0x7F, 0xFF] && t.dirty) = true := by decide

/-- `setall 1` on three registers (R112, worked example). -/
theorem test_setall_example :
    answers (exec (.setall true) (constructed 3 [] false []))
      (fun t => t.buffer = [0xFF, 0xFF, 0xFF] && t.dirty && t.resp = 0x00) = true := by decide

/-- `clear` on `[0x5A, 0xFF]` (R114, worked example). -/
theorem test_clear_example :
    answers (exec .clear (constructed 2 [(0, 0x5A), (1, 0xFF)] false []))
      (fun t => t.buffer = [0x00, 0x00] && t.dirty && t.buf = []) = true := by decide

/-- `transmit` is accepted whatever `DIRTY` (R130, R138). -/
theorem test_transmit_accepted :
    answers (exec .transmit (constructed 1 [(0, 0xA5)] false []))
      (fun t => t.mode = .busy && t.seqOp = .transmit && t.upc = 0 && t.trace = []) = true := by decide

/-- The bits of `0xA5` in the order they are sent: H, L, H, L, L, H, L, H (R130, worked example). -/
theorem test_transmit_bit_order :
    writesOf .sdata (transmitEvents 1 (constructed 1 [(0, 0xA5)] false []).out) =
      [.high, .low, .high, .low, .low, .high, .low, .high] := by decide

/-- `query` answers `0x10` while dirty and `0x00` while clean (R150, worked example). -/
theorem test_query_answers :
    answers (exec .query (constructed 2 [(0, 0x08)] true [])) (fun t => t.resp = 0x10 && t.dirty) = true ∧
    answers (exec .query (constructed 2 [(0, 0x08)] false [])) (fun t => t.resp = 0x00 && !t.dirty) = true := by
  decide

/-- A word placed where the next step takes it is run as the first command after reset. -/
theorem test_fetch_word_runs : step (State.reset.withFetchWord 32 0x19) = exec (.construct 25) State.reset := by rfl

/-! ## States that meet the invariant -/

/-- The invariant does not read the host's moves. -/
theorem inv_host {s : State} (h : Inv s) (moves : List HostMove) : Inv { s with host := moves } :=
  Inv.of_fields h rfl rfl rfl rfl rfl rfl rfl rfl rfl rfl rfl h.record

theorem inv_fresh_alone : Inv (fresh []) := by
  refine ⟨by decide, ?_, ⟨by decide, by decide⟩, ⟨by decide, by decide, by decide⟩, ⟨by decide, by decide⟩, ?_, ?_, ?_⟩
  · exact ⟨rfl, rfl, rfl, rfl, rfl⟩
  · exact ⟨rfl, rfl, rfl⟩
  · intro k hk
    cases hk
  · intro h
    cases h

theorem inv_fresh (moves : List HostMove) : Inv (fresh moves) := inv_host inv_fresh_alone moves

theorem inv_constructed_alone : Inv (constructed 1 [(0, 0xA5)] true []) := by
  refine ⟨by decide, ?_, ⟨by decide, by decide⟩, ⟨by decide, by decide, by decide⟩, ⟨by decide, by decide⟩, ?_, ?_, ?_⟩
  · exact ⟨by decide, by decide, rfl, rfl⟩
  · exact ⟨⟨rfl, rfl, rfl⟩, rfl, rfl, .low, rfl⟩
  · intro k hk
    cases hk
  · intro _
    exact ⟨rfl, fun h => by cases h⟩

theorem inv_constructed (moves : List HostMove) : Inv (constructed 1 [(0, 0xA5)] true moves) :=
  inv_host inv_constructed_alone moves

theorem inv_running_alone : Inv (running .transmit 0 1 [(0, 0xA5)] []) := by
  refine ⟨by decide, ?_, ⟨by decide, by decide⟩, ⟨by decide, by decide, by decide⟩, ⟨by decide, by decide⟩, ?_, ?_, ?_⟩
  · exact ⟨by decide, by decide, .inl ⟨rfl, by decide⟩⟩
  · exact ⟨⟨rfl, rfl, rfl⟩, fun h => absurd h (by decide), fun h => absurd h (by decide), fun h => absurd h (by decide)⟩
  · intro k hk
    cases hk
    exact ⟨fun i hi => absurd hi (Nat.not_lt_zero i), fun h => absurd h (by decide)⟩
  · intro h
    cases h

theorem inv_running (moves : List HostMove) : Inv (running .transmit 0 1 [(0, 0xA5)] moves) :=
  inv_host inv_running_alone moves

theorem inv_constructing_alone : Inv (constructing 0 []) := by
  refine ⟨by decide, ?_, ⟨by decide, by decide⟩, ⟨by decide, by decide, by decide⟩, ⟨by decide, by decide⟩, ?_, ?_, ?_⟩
  · exact ⟨by decide, by decide, .inr ⟨rfl, by decide⟩⟩
  · exact ⟨rfl, rfl, rfl⟩
  · intro k hk
    cases hk
  · intro h
    cases h

theorem inv_constructing (moves : List HostMove) : Inv (constructing 0 moves) :=
  inv_host inv_constructing_alone moves

theorem inv_shifting : Inv (shifting 3) := by
  refine ⟨by decide, ?_, ⟨by decide, by decide⟩, ⟨by decide, by decide, by decide⟩, ⟨by decide, by decide⟩, ?_, ?_, ?_⟩
  · exact ⟨by decide, by decide, .inl ⟨rfl, by decide⟩⟩
  · exact ⟨⟨rfl, rfl, rfl⟩, fun _ => by decide, fun _ => by decide, fun _ => by decide⟩
  · intro k hk
    cases hk
    exact ⟨fun i hi => absurd hi (Nat.not_lt_zero i), fun h => absurd h (by decide)⟩
  · intro h
    cases h

/-- The construction's transmission, its step 0 next (R100: `upc = 4`). -/
theorem inv_first_transmission : Inv (running .construct 4 1 [] []) := by
  refine ⟨by decide, ?_, ⟨by decide, by decide⟩, ⟨by decide, by decide, by decide⟩, ⟨by decide, by decide⟩, ?_, ?_, ?_⟩
  · exact ⟨by decide, by decide, .inr ⟨rfl, by decide⟩⟩
  · exact ⟨⟨rfl, rfl, rfl⟩, fun h => absurd h (by decide), fun h => absurd h (by decide), fun h => absurd h (by decide)⟩
  · intro k hk
    cases hk
    exact ⟨fun i hi => absurd hi (Nat.not_lt_zero i), fun h => absurd h (by decide)⟩
  · intro h
    cases h

/-- A transmission whose next step writes SDATA (step 2). -/
theorem inv_before_data : Inv (shifting 2) := by
  refine ⟨by decide, ?_, ⟨by decide, by decide⟩, ⟨by decide, by decide, by decide⟩, ⟨by decide, by decide⟩, ?_, ?_, ?_⟩
  · exact ⟨by decide, by decide, .inl ⟨rfl, by decide⟩⟩
  · exact ⟨⟨rfl, rfl, rfl⟩, fun _ => by decide, fun _ => by decide, fun h => absurd h (by decide)⟩
  · intro k hk
    cases hk
    exact ⟨fun i hi => absurd hi (Nat.not_lt_zero i), fun h => absurd h (by decide)⟩
  · intro h
    cases h

/-- A construction whose next step configures LATCH (`upc = 2`), and one whose next step zeroes the buffer. -/
def configuring (upc : Nat) : State :=
  { constructing upc [] with
    lines :=
      { sdata := { cfg := .out, level := .unknown .low }
        sclk := { cfg := .out, level := .unknown .low }
        latch := { cfg := if 2 < upc then .out else .z, level := .unknown .low } } }

theorem inv_configuring_latch : Inv (configuring 2) := by
  refine ⟨by decide, ?_, ⟨by decide, by decide⟩, ⟨by decide, by decide, by decide⟩, ⟨by decide, by decide⟩, ?_, ?_, ?_⟩
  · exact ⟨by decide, by decide, .inr ⟨rfl, by decide⟩⟩
  · exact ⟨rfl, rfl, rfl⟩
  · intro k hk
    cases hk
  · intro h
    cases h

theorem inv_configured : Inv (configuring 3) := by
  refine ⟨by decide, ?_, ⟨by decide, by decide⟩, ⟨by decide, by decide, by decide⟩, ⟨by decide, by decide⟩, ?_, ?_, ?_⟩
  · exact ⟨by decide, by decide, .inr ⟨rfl, by decide⟩⟩
  · exact ⟨rfl, rfl, rfl⟩
  · intro k hk
    cases hk
  · intro h
    cases h

theorem noReset_nil {s : State} (h : s.host = []) : NoReset s := by simp [NoReset, h]

/-! ## Witnesses: for each statement with hypotheses, a state and operands that meet them -/

theorem test_witness_ReservedAndMustBeZeroBitsAreIllegal :
    (∀ w ∈ [0x60000000#32, 0xF0000000#32, 0x02000000#32, 0x10010000#32, 0x10800000#32, 0x01000001#32, 0x31000000#32,
        0x51000000#32, 0x20000001#32, 0x30008000#32, 0x50000001#32],
      6 ≤ (w.extractLsb' 28 4).toNat ∨ w.extractLsb' 25 3 ≠ 0 ∨ w.extractLsb' 16 8 ≠ 0 ∨
        ((w.extractLsb' 28 4).toNat ∈ [0, 3, 4, 5] ∧ w.getLsbD 24 = true) ∨
        ((w.extractLsb' 28 4).toNat ∈ [2, 3, 4, 5] ∧ w.extractLsb' 0 16 ≠ 0)) ∧
    (fresh [.present 0x60000000#32]).mode ≠ .busy ∧
    (fresh [.present 0x60000000#32]).host = .present 0x60000000#32 :: [] := by
  refine ⟨?_, by decide, rfl⟩
  intro w hw
  simp only [List.mem_cons, List.not_mem_nil, or_false] at hw
  rcases hw with rfl | rfl | rfl | rfl | rfl | rfl | rfl | rfl | rfl | rfl | rfl <;> decide

theorem test_witness_DecodedOperandsAreTheFields :
    decode 0x0000FFFF#32 = .command (.construct 65535) ∧ decode 0x1100FFFF#32 = .command (.setpin 65535 true) ∧
      decode 0x21000000#32 = .command (.setall true) := by decide

theorem test_witness_EncodeOfDecodeIsTheWord : decode 0x1000FFFF#32 = .command (.setpin 65535 false) := by decide

theorem test_witness_AssemblerEmitsTheTablesWords :
    (0xFFFF : Nat) ≤ 0xFFFF ∧ (0xFFFF : Nat) < 0x10000 ∧ (0xFFFFFFFF : Nat) < 2 ^ 32 ∧ 2 ^ 32 ≤ (0x100000000 : Nat) :=
  ⟨by omega, by omega, by omega, by omega⟩

theorem test_witness_ResetAbandonsAnySequence :
    (running .transmit 5 1 [] [.reset]).host = .reset :: [] ∧ (running .transmit 5 1 [] [.reset]).mode = .busy := by
  decide

theorem test_witness_ResetKeepsTheParametersAndTheHost :
    ∃ t, step (running .transmit 5 1 [] [.reset]) = .next t := ⟨_, rfl⟩

theorem test_witness_ElaborationRefusesIllegalParameters :
    configOk Config.reference = true ∧ configOk { Config.reference with maxRegs := 8191 } = true ∧
      configOk { Config.reference with maxRegs := 0 } = false ∧
      configOk { Config.reference with maxRegs := 8192 } = false ∧
      configOk { Config.reference with clkPin := 0 } = false ∧
      configOk { Config.reference with latPin := 0 } = false ∧
      configOk { Config.reference with latPin := 1 } = false := by decide

theorem test_witness_StepRunsTheDecodedCommand :
    (fresh [.present 0x00000019#32]).mode ≠ .busy ∧
      (fresh [.present 0x00000019#32]).host = .present 0x00000019#32 :: [] ∧
      decode 0x00000019#32 = .command (.construct 25) := by decide

theorem test_witness_ReadyBlockHoldsItsState :
    (constructed 1 [] true []).mode ≠ .busy ∧ (constructed 1 [] true []).host = [] ∧
      (constructed 1 [] true [.wait]).mode ≠ .busy ∧ (constructed 1 [] true [.wait]).host = .wait :: [] := by decide

theorem test_witness_BusyBlockAcceptsNoCommand :
    (running .transmit 0 1 [] []).mode = .busy ∧ (∃ t, step (running .transmit 0 1 [] []) = .next t) ∧
      step (running .none 0 1 [] []) = .fault .noMicroStep := ⟨rfl, ⟨_, rfl⟩, rfl⟩

theorem test_witness_CommandWhileBusyIsStuck : (running .transmit 0 1 [] []).mode = .busy := rfl

theorem test_witness_IllegalWordRaisesIllegalCommand :
    decode 0xFFFFFFFF#32 = .illegal .reservedBits ∧
      (fresh [.present 0xFFFFFFFF#32]).host = .present 0xFFFFFFFF#32 :: [] ∧
      (fresh [.present 0xFFFFFFFF#32]).mode ≠ .busy ∧
      (running .transmit 0 1 [] [.present 0xFFFFFFFF#32]).mode = .busy ∧
      ∃ t, step (running .transmit 0 1 [] [.present 0xFFFFFFFF#32]) = .next t :=
  ⟨by decide, rfl, by decide, rfl, _, rfl⟩

theorem test_witness_UnconstructedBlockRaisesNotConstructed :
    (∀ i ∈ [Instr.setpin 0 true, .setall false, .clear, .transmit, .query], needsConstruction i = true) ∧
      (fresh []).mode = .unconfigured := by decide

theorem test_witness_SecondConstructRaisesAlreadyConstructed :
    (constructed 1 [] true []).mode = .idle ∧ decode 0x00000001#32 = .command (.construct 1) ∧
      (constructing 0 [.present 0x00000001#32]).host = .present 0x00000001#32 :: [] ∧
      (constructing 0 [.present 0x00000001#32]).mode = .busy ∧
      ∃ t, step (constructing 0 [.present 0x00000001#32]) = .next t := ⟨rfl, by decide, rfl, rfl, _, rfl⟩

theorem test_witness_IllegalCountRaisesConfigurationError :
    (fresh []).mode = .unconfigured ∧ (fresh []).cfg.maxRegs < 26 ∧ (fresh []).cfg.maxRegs < 65535 ∧
      25 ≤ (fresh []).cfg.maxRegs := by decide

theorem test_witness_IndexPastTheChainRaisesIndexOutOfRange :
    (constructed 1 [] true []).mode = .idle ∧ 8 * (constructed 1 [] true []).regCount ≤ 8 ∧
      (∃ t, exec (.setall true) (constructed 1 [] true []) = .next t) ∧
      ∃ t, exec .clear (fresh []) = .next t := ⟨rfl, by decide, ⟨_, rfl⟩, _, rfl⟩

/-- Both outcomes of the priority rule: `setpin 500, 1` before CONSTRUCT, `construct 0` after it, `setpin 8, 1` on one
register, and `setpin 7, 1` with no fault (R167). -/
theorem test_witness_FirstApplicableFaultIsReported :
    Inv (fresh [.present 0x110001F4#32]) ∧ firstFault (fresh [.present 0x110001F4#32]) 0x110001F4#32 = some 0x4 ∧
      Inv (constructed 1 [(0, 0xA5)] true [.present 0x00000000#32]) ∧
      firstFault (constructed 1 [(0, 0xA5)] true [.present 0x00000000#32]) 0x00000000#32 = some 0x5 ∧
      firstFault (constructed 1 [(0, 0xA5)] true [.present 0x11000008#32]) 0x11000008#32 = some 0x2 ∧
      firstFault (constructed 1 [(0, 0xA5)] true [.present 0x11000007#32]) 0x11000007#32 = none :=
  ⟨inv_fresh _, by decide, inv_constructed _, by decide, by decide, by decide⟩

theorem test_witness_OnlyAFaultingCommandWritesTheFaultRecord :
    (∃ t, step (fresh [.present 0x50000000#32]) = .next t ∧ t.lastFault = 0x4) ∧
      (∃ t, step (fresh [.reset]) = .next t ∧ t.lastFault = 0) ∧
      ∃ t, step (constructed 1 [] true [.present 0x50000000#32]) = .next t ∧ t.lastFault = 0 :=
  ⟨⟨_, rfl, rfl⟩, ⟨_, rfl, rfl⟩, _, rfl, rfl⟩

/-- SETPIN, SETALL, CLEAR: the buffer, the mode and an index at each side of `8N`. -/
theorem test_witness_buffer_commands :
    BufferOk (constructed 1 [(0, 0xA5)] true []) ∧
      (constructed 1 [(0, 0xA5)] true []).regCount ≤ (constructed 1 [(0, 0xA5)] true []).cfg.maxRegs ∧
      (constructed 1 [(0, 0xA5)] true []).mode = .idle ∧ 7 < 8 * (constructed 1 [(0, 0xA5)] true []).regCount ∧
      8 * (constructed 1 [(0, 0xA5)] true []).regCount ≤ 8 ∧
      BufferOk (fresh []) ∧ (fresh []).regCount ≤ (fresh []).cfg.maxRegs ∧ (fresh []).mode = .unconfigured := by
  refine ⟨⟨by decide, by decide⟩, by decide, rfl, by decide, by decide, ⟨by decide, by decide⟩, by decide, rfl⟩

theorem test_witness_BufferCommandsIssueNoLineEvent :
    (∃ t, exec (.setpin 7 true) (constructed 1 [] true []) = .next t) ∧
      (∃ t, exec (.setall true) (constructed 1 [] true []) = .next t) ∧
      ∃ t, exec .clear (constructed 1 [] true []) = .next t := ⟨⟨_, rfl⟩, ⟨_, rfl⟩, _, rfl⟩

/-- The query's answers: after a SETPIN, after a fault, and after the last micro-step of a transmission. -/
theorem test_witness_QueryAnswersAfterEachCommand :
    (∃ t u, exec (.setpin 7 true) (constructed 1 [] true []) = .next t ∧ exec .query t = .next u ∧ t.resp = 0x00) ∧
      (∃ t u, exec (.setpin 8 true) (constructed 1 [] true []) = .next t ∧ exec .query t = .next u ∧
        responseCode t.resp ≠ 0) ∧
      ∃ t u, NoReset (running .transmit 26 1 [] []) ∧ (running .transmit 26 1 [] []).mode = .busy ∧
        step (running .transmit 26 1 [] []) = .next t ∧ t.mode = .idle ∧ exec .query t = .next u :=
  ⟨⟨_, _, rfl, rfl, rfl⟩, ⟨_, _, rfl, rfl, by decide⟩, _, _, noReset_nil rfl, rfl, rfl, rfl, rfl⟩

theorem test_witness_QueryReportsTheDirtyFlag :
    (fresh []).mode = .unconfigured ∧ (constructed 1 [] true []).mode = .idle ∧
      (constructed 1 [] true []).dirty = true ∧ (constructed 1 [] false []).mode = .idle ∧
      (constructed 1 [] false []).dirty = false := by decide

/-- The line events: a rise of each clock, a write of the level a line has, SDATA known. -/
theorem test_witness_line_events :
    (shifting 3).lines.sclk.level.physical = .low ∧ (shifting 3).stages.length = 8 * (shifting 3).regCount ∧
      1 ≤ (shifting 3).regCount ∧ (shifting 3).lines.sdata.level = .known .high ∧
      (shifting 3).lines.latch.level.physical = .low ∧
      (constructed 1 [] true []).lines.sclk.level.physical = .high ∧
      ((constructed 1 [] true []).lines.get .latch).level = .known .high := by decide

theorem test_witness_LatchReadingsGiveTheSameOutputs :
    (constructed 1 [] true []).probe.outs = (constructed 1 [] true []).probe.stages ∧
      (constructed 1 [] true []).probe.latch = .high := by decide

theorem test_witness_ConstructIsAccepted :
    configOk (fresh []).cfg = true ∧ (fresh []).mode = .unconfigured ∧ 25 ≤ (fresh []).cfg.maxRegs := by decide

theorem test_witness_TransmitIsAccepted :
    (fresh []).mode = .unconfigured ∧ (constructed 1 [] true []).mode = .idle := by decide

/-- Every row of the table of R131 for one register, under TRANSMIT at `upc = k` and under CONSTRUCT at `4 + k`. -/
theorem test_witness_MicroStepsFollowTheTable :
    (∀ k ∈ [0, 1, 2, 3, 22, 23, 24, 25, 26],
      (running .transmit k 1 [] []).mode = .busy ∧ (running .transmit k 1 [] []).upc = k ∧
        (running .construct (4 + k) 1 [] []).upc = 4 + k) ∧
      (∀ op k, NoReset (running op k 1 [] [])) ∧
      (running .transmit 26 1 [] []).regCount ≤ (running .transmit 26 1 [] []).cfg.maxRegs ∧
      26 = 24 * (running .transmit 26 1 [] []).regCount + 2 :=
  ⟨by decide, fun _ _ => noReset_nil rfl, by decide, by decide⟩

theorem test_witness_ConstructPrefixConfiguresAndZeroes :
    (∀ k ∈ [0, 1, 2, 3], (constructing k []).mode = .busy ∧ (constructing k []).seqOp = .construct ∧
        (constructing k []).upc = k) ∧
      (∀ k, NoReset (constructing k [])) ∧ BufferOk (constructing 3 []) ∧
      (constructing 3 []).regCount ≤ (constructing 3 []).cfg.maxRegs :=
  ⟨by decide, fun _ => noReset_nil rfl, ⟨by decide, by decide⟩, by decide⟩

theorem test_witness_BusyLastsExactlyTheMicroSteps :
    Inv (running .transmit 0 1 [(0, 0xA5)] []) ∧ (running .transmit 0 1 [(0, 0xA5)] []).mode = .busy ∧
      (running .transmit 0 1 [(0, 0xA5)] []).upc = 0 ∧ Inv (constructing 0 []) ∧
      (constructing 0 []).mode = .busy ∧ (constructing 0 []).upc = 0 ∧ (constructing 0 []).host = [] :=
  ⟨inv_running _, rfl, rfl, inv_constructing _, rfl, rfl, rfl⟩

theorem test_witness_ConstructEndsInTheKnownLowState :
    Inv (fresh [.present (encode (.construct 25))]) ∧
      (fresh [.present (encode (.construct 25))]).mode = .unconfigured ∧
      25 ≤ (fresh [.present (encode (.construct 25))]).cfg.maxRegs := ⟨inv_fresh _, rfl, by decide⟩

theorem test_witness_TransmitSendsTheWholeBuffer :
    Inv (constructed 1 [(0, 0xA5)] true [.present 0x40000000#32]) ∧
      (constructed 1 [(0, 0xA5)] true [.present 0x40000000#32]).mode = .idle :=
  ⟨inv_constructed _, rfl⟩

theorem test_witness_OutputsEqualTheBufferAfterTransmission :
    Inv (running .transmit 0 1 [(0, 0xA5)] []) ∧ transmitAt (running .transmit 0 1 [(0, 0xA5)] []) = some 0 ∧
      Inv (running .construct 4 1 [] []) ∧ transmitAt (running .construct 4 1 [] []) = some 0 :=
  ⟨inv_running _, rfl, inv_first_transmission, rfl⟩

/-- Between the two TRANSMITs a QUERY and a SETPIN past the chain. -/
theorem test_witness_TransmitIsIdempotent :
    ∀ s, s = constructed 1 [(0, 0xA5)] true
        (.present 0x40000000#32 :: ([0x50000000#32, 0x11000008#32].map .present ++ [.present 0x40000000#32])) →
      Inv s ∧ s.mode = .idle ∧
        ∀ w ∈ [0x50000000#32, 0x11000008#32], w = 0x50000000#32 ∨ (firstFault s w).isSome = true := by
  rintro s rfl
  refine ⟨inv_constructed _, rfl, fun w hw => ?_⟩
  simp only [List.mem_cons, List.not_mem_nil, or_false] at hw
  rcases hw with rfl | rfl
  · exact .inl rfl
  · exact .inr rfl

theorem test_witness_TransmittedBitsReadBackAtTheOutputs :
    ∀ moves, Inv (constructed 1 [(0, 0xA5)] true moves) ∧ (constructed 1 [(0, 0xA5)] true moves).mode = .idle ∧
      0 < 8 * (constructed 1 [(0, 0xA5)] true moves).regCount ∧
      7 < 8 * (constructed 1 [(0, 0xA5)] true moves).regCount :=
  fun moves => ⟨inv_constructed moves, rfl, by show 0 < 8; decide, by show 7 < 8; decide⟩

theorem test_witness_ResetMeetsTheInvariant : ∃ s, elaborate Config.reference = .next s := ⟨_, rfl⟩

/-- A step from a state that meets the invariant, in each mode. -/
theorem test_witness_StepKeepsTheInvariant :
    (Inv (fresh []) ∧ ∃ t, step (fresh []) = .next t) ∧
      (Inv (constructed 1 [(0, 0xA5)] true []) ∧ ∃ t, step (constructed 1 [(0, 0xA5)] true []) = .next t) ∧
      Inv (running .transmit 0 1 [(0, 0xA5)] []) ∧ ∃ t, step (running .transmit 0 1 [(0, 0xA5)] []) = .next t :=
  ⟨⟨inv_fresh _, _, rfl⟩, ⟨inv_constructed _, _, rfl⟩, inv_running _, _, rfl⟩

theorem test_witness_OnlyResetReleasesALine :
    NoReset (shifting 3) ∧ (∃ t, step (shifting 3) = .next t) ∧ (∀ l ∈ [Line.sdata, .sclk, .latch],
      ((shifting 3).lines.get l).cfg = .out) ∧
      ∃ t, step { constructed 1 [] true [] with faultSeen := true } = .next t ∧ t.faultSeen = true :=
  ⟨noReset_nil rfl, ⟨_, rfl⟩, by decide, _, rfl, rfl⟩

theorem test_witness_RegisterCountIsImmutable :
    (Inv (constructed 1 [(0, 0xA5)] true []) ∧ (constructed 1 [(0, 0xA5)] true []).mode ≠ .unconfigured ∧
        NoReset (constructed 1 [(0, 0xA5)] true []) ∧ ∃ t, step (constructed 1 [(0, 0xA5)] true []) = .next t) ∧
      Inv (shifting 3) ∧ NoReset (shifting 3) ∧ ∃ t, step (shifting 3) = .next t :=
  ⟨⟨inv_constructed _, by decide, noReset_nil rfl, _, rfl⟩, inv_shifting, noReset_nil rfl, _, rfl⟩

/-- Two buffers that differ only above the chain. -/
theorem test_witness_BytesBeyondTheChainAreOutOfReach :
    NoReset (running .transmit 2 1 [(0, 0xA5)] []) ∧ (running .transmit 2 1 [(0, 0xA5)] []).buf.wf = true ∧
      Memory.wf [(0, 0xA5), (1, 0x77)] = true ∧
      (∀ a < (running .transmit 2 1 [(0, 0xA5)] []).regCount,
        Memory.read [(0, 0xA5), (1, 0x77)] a = (running .transmit 2 1 [(0, 0xA5)] []).buf.read a) ∧
      ∃ t, step (running .transmit 2 1 [(0, 0xA5)] []) = .next t :=
  ⟨noReset_nil rfl, by decide, by decide, by decide, _, rfl⟩

/-- `DIRTY` set by the zeroing step, by a SETPIN, and cleared by the last micro-step. -/
theorem test_witness_DirtyIsSetByMutationAndClearedByTransmission :
    (∃ t, step (constructing 3 []) = .next t ∧ t.dirty = true) ∧
      (∃ t, step (constructed 1 [] false [.present 0x11000007#32]) = .next t ∧ t.dirty = true) ∧
      ∃ t, step (running .transmit 26 1 [] []) = .next t ∧ t.dirty = false :=
  ⟨⟨_, rfl, rfl⟩, ⟨_, rfl, rfl⟩, _, rfl, rfl⟩

/-- Mid-shift under TRANSMIT, and at and after the configuration of LATCH under CONSTRUCT. -/
theorem test_witness_OutputsHoldDuringTheShift :
    (Inv (shifting 3) ∧ (∃ t, step (shifting 3) = .next t) ∧ (shifting 3).upc ≠ 24 * (shifting 3).regCount + 1) ∧
      (Inv (configuring 2) ∧ ∃ t, step (configuring 2) = .next t) ∧
      Inv (configuring 3) ∧ (∃ t, step (configuring 3) = .next t) ∧ 3 ≤ (configuring 3).upc :=
  ⟨⟨inv_shifting, ⟨_, rfl⟩, by decide⟩, ⟨inv_configuring_latch, _, rfl⟩, inv_configured, ⟨_, rfl⟩, by decide⟩

/-- The write of SDATA at step 2 and the rise of SCLK at step 3. -/
theorem test_witness_DataIsStableWhenTheClockRises :
    (Inv (shifting 2) ∧ NoReset (shifting 2) ∧ (shifting 2).mode = .busy ∧
        ∃ t, step (shifting 2) = .next t ∧ t.trace = (shifting 2).trace ++ [.write .sdata .high]) ∧
      Inv (shifting 3) ∧ NoReset (shifting 3) ∧ (shifting 3).mode = .busy ∧
        transmitAt (shifting 3) = some (3 + 3 * 0) ∧
        ∃ t, step (shifting 3) = .next t ∧ t.trace = (shifting 3).trace ++ [.write .sclk .high] :=
  ⟨⟨inv_before_data, noReset_nil rfl, rfl, _, rfl, by decide⟩, inv_shifting, noReset_nil rfl, rfl, rfl, _, rfl,
    by decide⟩

end Sys2Proof.Tests
end

/-! # The state between steps: the fault record, the lines' configuration, `N`, and the bytes at or above `N`
(10_state.md R26, R30, R34, R35, R38) -/

namespace Sys2Proof.Machine

/-! ## What a command and a micro-step can do -/

/-- The codes of R161 are 1 to 5. -/
theorem FaultCode.code_range (c : FaultCode) : 1 ≤ c.code.toNat ∧ c.code.toNat ≤ 5 := by
  cases c <;> decide

/-- A command that answers is a fault, a buffer command, a QUERY or the start of a sequence. -/
theorem exec_next {i : Instr} {s t : State} (h : exec i s = .next t) :
    (∃ c, t = raiseFault c s) ∨
    (s.mode = .idle ∧ ∃ m, t = (s.setBuf m).markDirty.respond responseDone) ∨
    (s.mode = .idle ∧ t = s.respond (responseWord s.dirty 0)) ∨
    (s.mode = .idle ∧ t = startSequence .transmit s) ∨
    (s.mode = .unconfigured ∧ ∃ n, legalCount s.cfg n = true ∧ t = startSequence .construct (s.setCount n)) := by
  cases i with
  | construct n =>
    rcases execConstruct_next h with ⟨-, e⟩ | ⟨-, -, e⟩ | ⟨hm, hl, e⟩
    · exact .inl ⟨_, e⟩
    · exact .inl ⟨_, e⟩
    · exact .inr (.inr (.inr (.inr ⟨hm, n, hl, e⟩)))
  | setpin index value =>
    rcases execSetpin_next h with ⟨-, e⟩ | ⟨-, -, e⟩ | ⟨hm, -, -, e⟩
    · exact .inl ⟨_, e⟩
    · exact .inl ⟨_, e⟩
    · exact .inr (.inl ⟨hm, _, e⟩)
  | setall value =>
    rcases execSetall_next h with ⟨-, e⟩ | ⟨hm, -, e⟩
    · exact .inl ⟨_, e⟩
    · exact .inr (.inl ⟨hm, _, e⟩)
  | clear =>
    rcases execClear_next h with ⟨-, e⟩ | ⟨hm, -, e⟩
    · exact .inl ⟨_, e⟩
    · exact .inr (.inl ⟨hm, _, e⟩)
  | transmit =>
    rcases execTransmit_next h with ⟨-, e⟩ | ⟨hm, e⟩
    · exact .inl ⟨_, e⟩
    · exact .inr (.inr (.inr (.inl ⟨hm, e⟩)))
  | query =>
    rcases execQuery_next h with ⟨-, e⟩ | ⟨hm, e⟩
    · exact .inl ⟨_, e⟩
    · exact .inr (.inr (.inl ⟨hm, e⟩))

/-- An accepted word raises a fault, or is a command that succeeds and leaves the fault record (R26). -/
theorem acceptWord_record {w : Word} {s t : State} (h : acceptWord w s = .next t) :
    (∃ c, t = raiseFault c s) ∨ (t.lastFault = s.lastFault ∧ t.faultSeen = s.faultSeen) := by
  rcases acceptWord_next h with ⟨i, -, h⟩ | ⟨_, -, e⟩
  · rcases exec_next h with hf | ⟨-, m, rfl⟩ | ⟨-, rfl⟩ | ⟨-, rfl⟩ | ⟨-, n, -, rfl⟩
    · exact .inl hf
    all_goals exact .inr ⟨rfl, rfl⟩
  · exact .inl ⟨_, e⟩

/-- No command writes the parameters or touches a line (R5, R83). -/
theorem acceptWord_frame {w : Word} {s t : State} (h : acceptWord w s = .next t) :
    t.cfg = s.cfg ∧ t.lines = s.lines := by
  rcases acceptWord_next h with ⟨i, -, h⟩ | ⟨_, -, rfl⟩
  · rcases exec_next h with ⟨c, rfl⟩ | ⟨-, m, rfl⟩ | ⟨-, rfl⟩ | ⟨-, rfl⟩ | ⟨-, n, -, rfl⟩ <;> exact ⟨rfl, rfl⟩
  · exact ⟨rfl, rfl⟩

/-- On a constructed block no command writes `N`, or takes the block back to UNCONFIGURED (R34, R106). -/
theorem acceptWord_constructed {w : Word} {s t : State} (h : acceptWord w s = .next t)
    (hs : s.mode ≠ .unconfigured) : t.n = s.n ∧ t.mode ≠ .unconfigured := by
  rcases acceptWord_next h with ⟨i, -, h⟩ | ⟨_, -, rfl⟩
  · rcases exec_next h with ⟨c, rfl⟩ | ⟨-, m, rfl⟩ | ⟨-, rfl⟩ | ⟨-, rfl⟩ | ⟨hm, -⟩
    · exact ⟨rfl, hs⟩
    · exact ⟨rfl, hs⟩
    · exact ⟨rfl, hs⟩
    · exact ⟨rfl, by simp⟩
    · exact absurd hm hs
  · exact ⟨rfl, hs⟩

/-- A micro-step leaves the parameters, `N` and the fault record (R26, R34). -/
theorem microStep_frame {s t : State} (h : microStep s = .next t) :
    t.cfg = s.cfg ∧ t.n = s.n ∧ t.lastFault = s.lastFault ∧ t.faultSeen = s.faultSeen := by
  obtain ⟨a, -, h⟩ := microStep_next h
  rcases runAct_next h with ⟨l, -, rfl⟩ | ⟨-, -, rfl⟩ | ⟨l, lvl, -, rfl⟩ | ⟨j, -, -, rfl⟩ | ⟨-, rfl⟩ <;> simp

/-- A micro-step stays in the sequence or ends it in IDLE (R22). -/
theorem microStep_mode {s t : State} (h : microStep s = .next t) : t.mode = s.mode ∨ t.mode = .idle := by
  obtain ⟨a, -, h⟩ := microStep_next h
  rcases runAct_next h with ⟨l, -, rfl⟩ | ⟨-, -, rfl⟩ | ⟨l, lvl, -, rfl⟩ | ⟨j, -, -, rfl⟩ | ⟨-, rfl⟩ <;> simp

/-- A configuration leaves every line OUT that is OUT (R30, R56). -/
theorem pinConfigure_keeps_out (l l' : Line) {s : State} (h : (s.lines.get l').cfg = .out) :
    ((pinConfigure l s).lines.get l').cfg = .out := by
  by_cases e : l' = l
  · simp [e]
  · simpa [Lines.get_set_of_ne _ _ e] using h

/-- A write leaves the configuration of every line (R57). -/
@[simp] theorem pinWrite_line_cfg (l l' : Line) (lvl : Level) (s : State) :
    ((pinWrite l lvl s).lines.get l').cfg = (s.lines.get l').cfg := by
  by_cases e : l' = l
  · simp [e]
  · simp [Lines.get_set_of_ne _ _ e]

/-- A micro-step leaves every line OUT that is OUT (R30). -/
theorem microStep_keeps_out {s t : State} (h : microStep s = .next t) {l : Line}
    (hl : (s.lines.get l).cfg = .out) : (t.lines.get l).cfg = .out := by
  obtain ⟨a, -, h⟩ := microStep_next h
  rcases runAct_next h with ⟨l', -, rfl⟩ | ⟨-, -, rfl⟩ | ⟨l', lvl, -, rfl⟩ | ⟨j, -, -, rfl⟩ | ⟨-, rfl⟩
  · exact pinConfigure_keeps_out l' l hl
  · exact hl
  · exact (pinWrite_line_cfg l' l lvl s).trans hl
  · exact (pinWrite_line_cfg .sdata l _ s).trans hl
  · exact hl

/-! ## A bit is sent only from a register of the chain -/

/-- A row of R131 that sends bit `j` is one of the `24N` rows of the bits. -/
theorem transmitAct_sendBit_lt {n k j : Nat} (h : transmitAct n k = some (.sendBit j)) : j < 8 * n := by
  unfold transmitAct at h
  split at h
  · cases h
  · split at h
    · next h0 hk =>
      split at h
      · cases h
      · simp only [Option.some.injEq, MicroAct.sendBit.injEq] at h
        omega
      · cases h
    · split at h
      · cases h
      · split at h <;> cases h

/-- The bit a micro-step sends is one of the `8N` outputs (R132). -/
theorem currentAct_sendBit_lt {s : State} {j : Nat} (h : currentAct s = some (.sendBit j)) :
    j < 8 * s.regCount := by
  unfold currentAct at h
  split at h
  · cases h
  · unfold constructAct at h
    split at h
    case h_5 => exact transmitAct_sendBit_lt h
    all_goals cases h
  · exact transmitAct_sendBit_lt h

/-! ## Two buffers that agree on the chain's bytes

The statement of R35 compares a step of `s` with the step of `s.setBuf m`, where `m` reads as the buffer of `s`
below `N`. `Alike s m a b` is what it asks of the two answers `a` and `b`; every operation of the block passes it on
from its continuation. -/

/-- `m` is a buffer for the block `s` that differs from its own only at or above `N`; both are canonical. -/
structure SameChain (s : State) (m : Memory) : Prop where
  wf : s.buf.wf = true
  wf' : m.wf = true
  agree : ∀ k < s.regCount, m.read k = s.buf.read k

/-- If `a` is a next state, its buffer is that of `s` at and above `N`, and `b` is the same state with a buffer that
agrees with it below `N` and with `m` at and above (R35). -/
def Alike (s : State) (m : Memory) (a b : Answer) : Prop :=
  ∀ t, a = .next t →
    (∀ k, s.regCount ≤ k → t.buf.read k = s.buf.read k) ∧
    ∃ m', b = .next (t.setBuf m') ∧
      (∀ k < s.regCount, m'.read k = t.buf.read k) ∧ (∀ k, s.regCount ≤ k → m'.read k = m.read k)

section
variable {s : State} {m : Memory} {a b : Answer}

/-- A next state that leaves the buffer. -/
theorem SameChain.alike_next (hc : SameChain s m) {t : State} (ht : t.buf = s.buf) :
    Alike s m (.next t) (.next (t.setBuf m)) := by
  rintro _ ⟨⟩
  exact ⟨fun k _ => by rw [ht], m, rfl, fun k hk => by rw [ht, hc.agree k hk], fun k _ => rfl⟩

/-- A next state whose buffer is written at one byte of the chain. -/
theorem SameChain.alike_write (hc : SameChain s m) {t : State} {k : Nat} {v : Byte} (hk : k < s.regCount)
    (ht : t.buf = s.buf.write k v) : Alike s m (.next t) (.next (t.setBuf (m.write k v))) := by
  rintro _ ⟨⟩
  refine ⟨fun i hi => ?_, m.write k v, rfl, fun i hi => ?_, fun i hi => ?_⟩
  · rw [ht, Memory.read_write _ _ _ hc.wf, if_neg (by omega)]
  · rw [ht, Memory.read_write _ _ _ hc.wf, Memory.read_write _ _ _ hc.wf', hc.agree i hi]
  · rw [Memory.read_write _ _ _ hc.wf', if_neg (by omega)]

/-- A next state whose buffer is filled up to `N`. -/
theorem SameChain.alike_fill (hc : SameChain s m) {t : State} {v : Byte} (ht : t.buf = s.buf.fill s.regCount v) :
    Alike s m (.next t) (.next (t.setBuf (m.fill s.regCount v))) := by
  rintro _ ⟨⟩
  refine ⟨fun i hi => ?_, m.fill s.regCount v, rfl, fun i hi => ?_, fun i hi => ?_⟩
  · rw [ht, Memory.read_fill _ _ _ hc.wf, if_neg (by omega)]
  · rw [ht, Memory.read_fill _ _ _ hc.wf, Memory.read_fill _ _ _ hc.wf', if_pos hi, if_pos hi]
  · rw [Memory.read_fill _ _ _ hc.wf', if_neg (by omega)]

theorem Alike.of_fault (f : Fault) : Alike s m (.fault f) b := by rintro _ ⟨⟩

/-- A raised fault (R160). -/
theorem SameChain.alike_faulted (hc : SameChain s m) (c : FaultCode) :
    Alike s m (faulted c s) (faulted c (s.setBuf m)) :=
  hc.alike_next (t := raiseFault c s) rfl

/-- The mode check of R165. -/
theorem SameChain.alike_whenConstructed (hc : SameChain s m) (h : Alike s m a b) :
    Alike s m (whenConstructed s a) (whenConstructed (s.setBuf m) b) := by
  cases hm : s.mode with
  | busy => rw [whenConstructed_busy a hm]; exact .of_fault _
  | unconfigured =>
    rw [whenConstructed_unconfigured a hm, whenConstructed_unconfigured b (by simpa using hm)]
    exact hc.alike_faulted _
  | idle => rwa [whenConstructed_idle a hm, whenConstructed_idle b (by simpa using hm)]

/-- The mode check of R166. -/
theorem SameChain.alike_whenUnconfigured (hc : SameChain s m) (h : Alike s m a b) :
    Alike s m (whenUnconfigured s a) (whenUnconfigured (s.setBuf m) b) := by
  cases hm : s.mode with
  | busy => rw [whenUnconfigured_busy a hm]; exact .of_fault _
  | unconfigured => rwa [whenUnconfigured_unconfigured a hm, whenUnconfigured_unconfigured b (by simpa using hm)]
  | idle =>
    rw [whenUnconfigured_idle a hm, whenUnconfigured_idle b (by simpa using hm)]
    exact hc.alike_faulted _

/-- A byte of the chain is read alike (R134). -/
theorem SameChain.alike_loadByte (hc : SameChain s m) {k : Nat} (hk : k < s.regCount) {f g : Byte → Answer}
    (h : ∀ x, Alike s m (f x) (g x)) : Alike s m (loadByte k s f) (loadByte k (s.setBuf m) g) := by
  by_cases hl : k < s.cfg.maxRegs
  · rw [loadByte_of_lt f hl, loadByte_of_lt g (s := s.setBuf m) hl, State.setBuf_buf, hc.agree k hk]
    exact h _
  · rw [loadByte, if_neg hl]; exact .of_fault _

/-- A byte of the chain is written alike, by an operation that goes on without the buffer (R110). -/
theorem SameChain.alike_storeByte (hc : SameChain s m) {k : Nat} (hk : k < s.regCount) {v : Byte} {f : State → State}
    (hf : ∀ t x, f (t.setBuf x) = (f t).setBuf x) :
    Alike s m (storeByte k v s fun t => .next (f t)) (storeByte k v (s.setBuf m) fun t => .next (f t)) := by
  by_cases hl : k < s.cfg.maxRegs
  · rw [storeByte_of_lt v _ hl, storeByte_of_lt v _ (s := s.setBuf m) hl, hf, hf, hf]
    exact hc.alike_write hk rfl
  · rw [storeByte, if_neg hl]; exact .of_fault _

/-- The chain's bytes are filled alike, by an operation that goes on without the buffer (R112-R114). -/
theorem SameChain.alike_fillBuffer (hc : SameChain s m) {v : Byte} {f : State → State}
    (hf : ∀ t x, f (t.setBuf x) = (f t).setBuf x) :
    Alike s m (fillBuffer v s fun t => .next (f t)) (fillBuffer v (s.setBuf m) fun t => .next (f t)) := by
  by_cases hl : s.regCount ≤ s.cfg.maxRegs
  · rw [fillBuffer_of_le v _ hl, fillBuffer_of_le v _ (s := s.setBuf m) hl, hf, hf, hf]
    exact hc.alike_fill rfl
  · rw [fillBuffer, if_neg hl]; exact .of_fault _

/-! ### Commands -/

/-- A SETPIN past the chain is a fault; any other reads and writes a byte of the chain (R110, R163). -/
theorem SameChain.alike_execSetpin (hc : SameChain s m) (index : Nat) (value : Bool) :
    Alike s m (execSetpin index value s) (execSetpin index value (s.setBuf m)) := by
  apply hc.alike_whenConstructed
  rw [State.setBuf_outputCount]
  by_cases hi : s.outputCount ≤ index
  · rw [if_pos hi, if_pos hi]
    exact hc.alike_faulted _
  · rw [if_neg hi, if_neg hi]
    have hk : byteIndex index < s.regCount := byteIndex_lt (Nat.lt_of_not_le hi)
    exact hc.alike_loadByte hk fun x => hc.alike_storeByte hk fun _ _ => rfl

/-- What SETALL and CLEAR do on a constructed block (R112, R114). -/
theorem SameChain.alike_fillCompleted (hc : SameChain s m) (v : Byte) :
    Alike s m (fillBuffer v s fun t => completed t.markDirty)
      (fillBuffer v (s.setBuf m) fun t => completed t.markDirty) :=
  hc.alike_fillBuffer (f := fun t => t.markDirty.respond responseDone) fun _ _ => rfl

/-- CONSTRUCT does not look at the buffer (R100). -/
theorem SameChain.alike_execConstruct (hc : SameChain s m) (n : Nat) :
    Alike s m (execConstruct n s) (execConstruct n (s.setBuf m)) := by
  apply hc.alike_whenUnconfigured
  rw [State.setBuf_cfg]
  split
  · exact hc.alike_next (t := startSequence .construct (s.setCount n)) rfl
  · exact hc.alike_faulted _

theorem SameChain.alike_exec (hc : SameChain s m) (i : Instr) : Alike s m (exec i s) (exec i (s.setBuf m)) := by
  cases i with
  | construct n => exact hc.alike_execConstruct n
  | setpin index value => exact hc.alike_execSetpin index value
  | setall value => exact hc.alike_whenConstructed (hc.alike_fillCompleted _)
  | clear => exact hc.alike_whenConstructed (hc.alike_fillCompleted _)
  | transmit => exact hc.alike_whenConstructed (hc.alike_next (t := startSequence .transmit s) rfl)
  | query => exact hc.alike_whenConstructed (hc.alike_next (t := s.respond (responseWord s.dirty 0)) rfl)

theorem SameChain.alike_acceptWord (hc : SameChain s m) (w : Word) :
    Alike s m (acceptWord w s) (acceptWord w (s.setBuf m)) := by
  unfold acceptWord
  split
  · exact hc.alike_exec _
  · exact hc.alike_faulted _

/-! ### Micro-steps -/

theorem pinConfigure_setBuf (l : Line) (s : State) (m : Memory) :
    pinConfigure l (s.setBuf m) = (pinConfigure l s).setBuf m := by
  cases l <;> rfl

theorem pinWrite_setBuf (l : Line) (lvl : Level) (s : State) (m : Memory) :
    pinWrite l lvl (s.setBuf m) = (pinWrite l lvl s).setBuf m := by
  cases l with
  | sdata => rfl
  | sclk => simp only [pinWrite, State.chainReact, apply_ite (State.setBuf · m)]; rfl
  | latch => rfl

/-- The write of a line. -/
theorem SameChain.alike_pinWrite (hc : SameChain s m) (l : Line) (lvl : Level) :
    Alike s m (advance (pinWrite l lvl s)) (advance (pinWrite l lvl (s.setBuf m))) := by
  rw [pinWrite_setBuf]
  exact hc.alike_next (t := (pinWrite l lvl s).nextUpc) (by simp)

/-- An action that sends no bit past the `8N` reads and writes the chain's bytes only. -/
theorem SameChain.alike_runAct (hc : SameChain s m) {act : MicroAct}
    (hj : ∀ j, act = .sendBit j → j < 8 * s.regCount) : Alike s m (runAct act s) (runAct act (s.setBuf m)) := by
  cases act with
  | configure l =>
    simp only [runAct, pinConfigure_setBuf]
    exact hc.alike_next (t := (pinConfigure l s).nextUpc) (by simp)
  | zeroBuffer => exact hc.alike_fillBuffer (f := fun t => t.markDirty.nextUpc) fun _ _ => rfl
  | write l lvl => exact hc.alike_pinWrite l lvl
  | sendBit j =>
    simp only [runAct, State.setBuf_regCount]
    exact hc.alike_loadByte (sentRegister_lt (hj j rfl)) fun x => hc.alike_pinWrite _ _
  | finish => exact hc.alike_next (t := finishSequence s) rfl

theorem SameChain.alike_microStep (hc : SameChain s m) : Alike s m (microStep s) (microStep (s.setBuf m)) := by
  have he : currentAct (s.setBuf m) = currentAct s := rfl
  unfold microStep
  rw [he]
  split
  · next act ha => exact hc.alike_runAct fun j e => currentAct_sendBit_lt (e ▸ ha)
  · exact .of_fault _

/-! ### A step -/

/-- The host's moves are no part of the comparison. -/
theorem SameChain.setHost (hc : SameChain s m) (moves : List HostMove) : SameChain (s.setHost moves) m :=
  ⟨hc.wf, hc.wf', hc.agree⟩

theorem SameChain.alike_readyStep (hc : SameChain s m) (hr : ∀ rest, s.host ≠ .reset :: rest) :
    Alike s m (readyStep s) (readyStep (s.setBuf m)) := by
  cases hh : s.host with
  | nil =>
    rw [readyStep_of_nil hh, readyStep_of_nil (s := s.setBuf m) hh]
    exact hc.alike_next rfl
  | cons move rest =>
    cases move with
    | wait =>
      rw [readyStep_of_wait hh, readyStep_of_wait (s := s.setBuf m) hh]
      exact hc.alike_next (t := s.setHost rest) rfl
    | present w =>
      rw [readyStep_of_present hh, readyStep_of_present (s := s.setBuf m) hh]
      exact (hc.setHost rest).alike_acceptWord w
    | reset => exact absurd hh (hr rest)

/-- R35 for a whole step. -/
theorem SameChain.alike_step (hc : SameChain s m) (hr : ∀ rest, s.host ≠ .reset :: rest) :
    Alike s m (step s) (step (s.setBuf m)) := by
  by_cases hb : s.mode = .busy
  · rw [step_of_busy hr hb, step_of_busy (s := s.setBuf m) hr hb]
    exact (hc.setHost _).alike_microStep
  · rw [step_of_ready hr hb, step_of_ready (s := s.setBuf m) hr hb]
    exact hc.alike_readyStep hr

end

end Sys2Proof.Machine

namespace Sys2Proof.Safety

open Sys2Proof.Machine

/-- On a constructed block `1 ≤ N ≤ MAX_REGS` (R34). -/
theorem Inv.regCount_bounds {s : State} (h : Inv s) (hs : s.mode ≠ .unconfigured) :
    1 ≤ s.regCount ∧ s.regCount ≤ s.cfg.maxRegs := by
  have hmodes := h.modes
  cases hm : s.mode with
  | unconfigured => exact absurd hm hs
  | idle =>
    obtain ⟨h1, h2, -⟩ := (modeOk_idle hm).mp hmodes
    exact ⟨h1, h2⟩
  | busy =>
    obtain ⟨h1, h2, -⟩ := (modeOk_busy hm).mp hmodes
    exact ⟨h1, h2⟩

/-- Settles O8, line by line. -/
theorem resetLeavesTheSpecsValues : Obligations.ResetLeavesTheSpecsValues := by
  refine ⟨rfl, fun c => ⟨rfl, rfl, rfl, rfl, rfl, rfl, rfl, rfl, rfl, fun l => ?_⟩⟩
  cases l <;> exact ⟨rfl, _, rfl⟩

/-- Settles O22, by the cases of a step: only an accepted word can raise a fault. -/
theorem onlyAFaultingCommandWritesTheFaultRecord : Obligations.OnlyAFaultingCommandWritesTheFaultRecord := by
  refine ⟨⟨rfl, rfl⟩, fun s t h => ?_⟩
  rcases step_next h with ⟨rest, hh, rfl⟩ | ⟨-, -, h⟩ | ⟨w, rest, hh, hm, h⟩ | ⟨rest, -, -, rfl⟩ | ⟨-, -, rfl⟩
  · exact .inr (.inl ⟨⟨rest, hh⟩, rfl, rfl⟩)
  · obtain ⟨-, -, hf, hseen⟩ := microStep_frame h
    exact .inl ⟨hf, hseen⟩
  · rcases acceptWord_record h with ⟨c, rfl⟩ | hkept
    · obtain ⟨h1, h5⟩ := c.code_range
      exact .inr (.inr ⟨w, rest, c.code, hm, hh, h1, h5, raiseFault_eq_recordFault c _⟩)
    · exact .inl hkept
  · exact .inl ⟨rfl, rfl⟩
  · exact .inl ⟨rfl, rfl⟩

/-- Settles O55, by the cases of a step: a command touches no line, and a fault only sets FAULT_SEEN. -/
theorem onlyResetReleasesALine : Obligations.OnlyResetReleasesALine := by
  intro s t hr h
  rcases step_next h with ⟨rest, hh, -⟩ | ⟨-, -, h⟩ | ⟨w, rest, -, -, h⟩ | ⟨rest, -, -, rfl⟩ | ⟨-, -, rfl⟩
  · exact absurd hh (hr rest)
  · obtain ⟨-, -, -, hseen⟩ := microStep_frame h
    exact ⟨fun l hl => microStep_keeps_out h hl, fun hs => hseen.trans hs⟩
  · obtain ⟨-, hlines⟩ := acceptWord_frame h
    refine ⟨fun l hl => by rw [hlines]; exact hl, fun hs => ?_⟩
    rcases acceptWord_record h with ⟨c, rfl⟩ | ⟨-, hseen⟩
    · rfl
    · exact hseen.trans hs
  · exact ⟨fun _ hl => hl, id⟩
  · exact ⟨fun _ hl => hl, id⟩

/-- Settles O56, by the cases of a step: only the CONSTRUCT of an unconfigured block writes `N`. -/
theorem registerCountIsImmutable : Obligations.RegisterCountIsImmutable := by
  intro s t hi hs hr h
  obtain ⟨h1, h2⟩ := hi.regCount_bounds hs
  refine ⟨h1, h2, ?_⟩
  rcases step_next h with ⟨rest, hh, -⟩ | ⟨-, hb, h⟩ | ⟨w, rest, -, -, h⟩ | ⟨rest, -, -, rfl⟩ | ⟨-, -, rfl⟩
  · exact absurd hh (hr rest)
  · obtain ⟨hcfg, hn, -, -⟩ := microStep_frame h
    refine ⟨hn, ?_, hcfg⟩
    rcases microStep_mode h with e | e <;> simp [e, hb]
  · obtain ⟨hn, hm⟩ := acceptWord_constructed h hs
    obtain ⟨hcfg, -⟩ := acceptWord_frame h
    exact ⟨hn, hm, hcfg⟩
  · exact ⟨rfl, hs, rfl⟩
  · exact ⟨rfl, hs, rfl⟩

/-- Settles O57: every operation passes the agreement of two buffers below `N` on to the next state. -/
theorem bytesBeyondTheChainAreOutOfReach : Obligations.BytesBeyondTheChainAreOutOfReach := by
  intro s t m hr hwf hwf' hagree h
  exact SameChain.alike_step ⟨hwf, hwf', hagree⟩ hr t h

end Sys2Proof.Safety

/-! ## Line events (20_memory.md) -/

namespace Sys2Proof.Machine

/-- One event more in `TRACE` is one platform call more (R58, R64). -/
theorem platformCalls_of_trace_append {s t : State} {e : LineEvent} (hcfg : t.cfg = s.cfg)
    (htrace : t.trace = s.trace ++ [e]) : platformCalls t = platformCalls s ++ [platformCall s.cfg e] := by
  simp [platformCalls, hcfg, htrace]

/-- Staying at a level is no rising transition (R183). -/
@[simp] theorem isRising_self (lvl : Level) : isRising lvl lvl = false := by
  cases lvl <;> rfl

/-- A write of the physical level a line already has leaves the chain's bits (R183). -/
theorem pinWrite_chain_of_same_level (l : Line) {lvl : Level} {s : State}
    (h : (s.lines.get l).level.physical = lvl) :
    (pinWrite l lvl s).stages = s.stages ∧ (pinWrite l lvl s).outs = s.outs := by
  subst h
  cases l with
  | sdata => exact ⟨rfl, rfl⟩
  | sclk => simp [pinWrite_sclk_stages]
  | latch => simp [pinWrite_latch_outs]

/-- A configuration writes the lines, `TRACE`, the chain and the draw counter only. -/
theorem pinConfigure_frame (l : Line) (s : State) :
    pinConfigure l s =
      { s with
        lines := (pinConfigure l s).lines
        trace := (pinConfigure l s).trace
        stages := (pinConfigure l s).stages
        outs := (pinConfigure l s).outs
        draws := (pinConfigure l s).draws } := by
  cases l <;> rfl

/-- A write writes the lines, `TRACE`, the chain and the draw counter only. -/
theorem pinWrite_frame (l : Line) (lvl : Level) (s : State) :
    pinWrite l lvl s =
      { s with
        lines := (pinWrite l lvl s).lines
        trace := (pinWrite l lvl s).trace
        stages := (pinWrite l lvl s).stages
        outs := (pinWrite l lvl s).outs
        draws := (pinWrite l lvl s).draws } := by
  cases l with
  | sdata => rfl
  | sclk => simp only [pinWrite, State.chainReact]; split <;> rfl
  | latch => rfl

end Sys2Proof.Machine

namespace Sys2Proof.Safety

open Sys2Proof.Machine

/-- Settles O31, clause by clause: the lines and the trace are `pinConfigure`'s field equations, the chain's clauses
go by line. -/
theorem pinConfigureIsOneEvent : Obligations.PinConfigureIsOneEvent := by
  intro l s
  have hcalls := platformCalls_of_trace_append (pinConfigure_cfg l s) (pinConfigure_trace l s)
  refine ⟨Config.initLevel s.draws, ?line, pinConfigure_trace l s, ?calls, ?others, ?sdata, ?sclk, ?latch,
    pinConfigure_frame l s⟩
  case line => rw [pinConfigure_lines, Lines.get_set_same]
  case calls => rw [hcalls]; cases l <;> rfl
  case others => intro l' hne; rw [pinConfigure_lines, Lines.get_set_of_ne _ _ hne]
  case sdata => rintro rfl; exact ⟨pinConfigure_sdata_stages s, pinConfigure_sdata_outs s⟩
  case sclk => rintro rfl; exact ⟨⟨s.draws + 1, pinConfigure_sclk_stages s⟩, pinConfigure_sclk_outs s⟩
  case latch => rintro rfl; exact ⟨⟨s.draws + 1, pinConfigure_latch_outs s⟩, pinConfigure_latch_stages s⟩

/-- Settles O32, clause by clause: a write of the level the line already has is an event but no transition. -/
theorem pinWriteIsOneEvent : Obligations.PinWriteIsOneEvent := by
  intro l lvl s
  have hcalls := platformCalls_of_trace_append (pinWrite_cfg l lvl s) (pinWrite_trace l lvl s)
  refine ⟨?line, pinWrite_trace l lvl s, ?calls, ?same, ?others, pinWrite_frame l lvl s⟩
  case line => rw [pinWrite_lines, Lines.get_set_same]
  case calls => rw [hcalls]; cases l <;> rfl
  case same => intro hlvl; exact pinWrite_chain_of_same_level l (congrArg LineLevel.physical hlvl)
  case others => intro l' hne; rw [pinWrite_lines, Lines.get_set_of_ne _ _ hne]

end Sys2Proof.Safety

/-! # The command word (30_encoding.md): a word that spells a command has the fields R73 gives it -/

namespace Sys2Proof.Laws.FieldBits

/-- OP is at most `0x5` in a command's word (R72). -/
theorem opNumber_le (i : Instr) : opNumber i ≤ 5 := by
  cases i <;> simp [opNumber]

/-- Only SETPIN and SETALL have a V (R73, R76). -/
theorem valueBit_eq_false {i : Instr} (h : opNumber i ∈ [0, 3, 4, 5]) : valueBit i = false := by
  cases i with
  | setpin _ _ | setall _ => simp [opNumber] at h
  | construct _ | clear | transmit | query => rfl

/-- Only CONSTRUCT and SETPIN have an ARG (R73, R75). -/
theorem argNumber_eq_zero {i : Instr} (h : opNumber i ∈ [2, 3, 4, 5]) : argNumber i = 0 := by
  cases i with
  | construct _ | setpin _ _ => simp [opNumber] at h
  | setall _ | clear | transmit | query => rfl

/-- The case over OP answers a command only at the fields of that command's row (R73, R74). -/
theorem decodeOp_command {op : BitVec 4} {v : Bool} {arg : BitVec 16} {i : Instr}
    (h : decodeOp op v arg = .command i) :
    op.toNat = opNumber i ∧ v = valueBit i ∧ arg.toNat = argNumber i := by
  unfold decodeOp at h
  split at h
  case h_1 hop =>
    split at h
    · cases h
    · next hv => cases h; exact ⟨hop, by simpa [valueBit] using hv, rfl⟩
  case h_2 hop => cases h; exact ⟨hop, rfl, rfl⟩
  case h_3 hop =>
    split at h
    · next ha => cases h; exact ⟨hop, rfl, congrArg BitVec.toNat ha⟩
    · cases h
  case h_4 hop | h_5 hop | h_6 hop =>
    split at h
    · next hz => cases h; exact ⟨hop, hz.1, congrArg BitVec.toNat hz.2⟩
    · cases h
  case h_7 => cases h

/-- The fields of a word that decodes to a command, the converse of `Statement`. -/
theorem fields_of_decode_command {w : Word} {i : Instr} (h : decode w = .command i) :
    w.op.toNat = opNumber i ∧ w.arg.toNat = argNumber i ∧ w.v = valueBit i ∧ w.rz1 = 0 ∧ w.rz2 = 0 := by
  obtain ⟨h1, h2, h⟩ := decode_command h
  obtain ⟨hop, hv, harg⟩ := decodeOp_command h
  exact ⟨hop, harg, hv, h1, h2⟩

end Sys2Proof.Laws.FieldBits

namespace Sys2Proof

/-- The decoder has two answers (R74). -/
theorem decode_illegal_of_not_command {w : Word} (h : ∀ i, decode w ≠ .command i) : ∃ why, decode w = .illegal why := by
  cases hd : decode w with
  | command i => exact absurd hd (h i)
  | illegal why => exact ⟨why, rfl⟩

end Sys2Proof

namespace Sys2Proof.Machine

/-- A block that is not BUSY accepts the word presented to it (R83, R176). -/
theorem step_of_present {s : State} {w : Word} {rest : List HostMove} (hm : s.mode ≠ .busy)
    (hh : s.host = .present w :: rest) : step s = acceptWord w (s.setHost rest) := by
  rw [step_of_ready (by simp [hh]) hm, readyStep_of_present hh]

/-- An Illegal word raises IllegalCommand (R164). -/
theorem acceptWord_of_illegal {w : Word} {why : IllegalWhy} (h : decode w = .illegal why) (s : State) :
    acceptWord w s = faulted .illegalCommand s := by
  simp [acceptWord, h]

end Sys2Proof.Machine

namespace Sys2Proof.Safety

open Sys2Proof.Machine Sys2Proof.Laws.FieldBits

/-- The next state of a ready block on an Illegal word (R160, R164). -/
theorem step_of_illegal {s : State} {w : Word} {why : IllegalWhy} {rest : List HostMove}
    (hd : decode w = .illegal why) (hm : s.mode ≠ .busy) (hh : s.host = .present w :: rest) :
    step s = .next (recordFault 0x3 { s with host := rest }) := by
  rw [step_of_present hm hh, acceptWord_of_illegal hd, faulted, raiseFault_eq_recordFault]
  rfl

/-- Settles O3: were the word a command, its fields would be those of the command's row, and no row has OP above
`0x5`, a reserved bit, or the V or ARG in question. -/
theorem reservedAndMustBeZeroBitsAreIllegal : Obligations.ReservedAndMustBeZeroBitsAreIllegal := by
  intro w hw
  have hillegal : ∃ why, decode w = .illegal why := by
    refine decode_illegal_of_not_command fun i hd => ?_
    obtain ⟨hop, harg, hv, h1, h2⟩ := fields_of_decode_command hd
    rcases hw with hop' | h1' | h2' | ⟨hop', hv'⟩ | ⟨hop', harg'⟩
    · exact absurd (hop ▸ opNumber_le i) (Nat.not_le.mpr hop')
    · exact h1' h1
    · exact h2' h2
    · exact Bool.false_ne_true ((hv.trans (valueBit_eq_false (hop ▸ hop'))).symm.trans hv')
    · exact harg' (BitVec.eq_of_toNat_eq (harg.trans (argNumber_eq_zero (hop ▸ hop'))))
  refine ⟨hillegal, fun s rest hm hh => ?_⟩
  obtain ⟨why, hd⟩ := hillegal
  exact step_of_illegal hd hm hh

end Sys2Proof.Safety

/-! # CONSTRUCT (40_construct.md), and the transmission it ends with (42_transmit.md R131)

A run of a sequence is computed state by state: one step while the host lets the sequence run, the three steps of
a bit, all the bits, the whole transmission (`State.transmitted`), the four steps of R100 before it
(`State.prepared`), and the whole construction. -/

namespace Sys2Proof.Machine

open Sys2Proof.Safety

/-! ## A step of a sequence -/

/-- A step in BUSY runs the action the counter names; only a wait leaves the host's list (R83, R211). -/
theorem step_of_act {s : State} {a : MicroAct} (hr : NoReset s) (hm : s.mode = .busy) (ha : currentAct s = some a) :
    step s = runAct a (s.setHost (movesAfterBusy s.host)) :=
  (step_of_busy hr hm).trans (microStep_of_act ha)

/-- The zeroing step on a block whose `N` fits the buffer (R103). -/
theorem runAct_zeroBuffer {s : State} (h : s.regCount ≤ s.cfg.maxRegs) :
    runAct .zeroBuffer s = .next (s.setBuf (s.buf.fill s.regCount (fillByte false))).markDirty.nextUpc :=
  zeroBuffer_of_le advance h

/-- The `j`-th bit sent is logical output `8N - 1 - j` (R132). -/
theorem runAct_sendBit {s : State} {j : Nat} (hj : j < s.outputCount) (h : s.regCount ≤ s.cfg.maxRegs) :
    runAct (.sendBit j) s = .next (pinWrite .sdata (levelOf (s.out (s.outputCount - 1 - j))) s).nextUpc := by
  obtain ⟨hreg, hbit⟩ := sent_position hj
  rw [runAct, loadByte_of_lt _ (Nat.lt_of_lt_of_le (sentRegister_lt hj) h), hreg, hbit]
  rfl

/-- The block is BUSY and the host's list stays as it is: it is empty, or a word waits at its head (R83, R211). -/
structure Undisturbed (s : State) : Prop where
  busy : s.mode = .busy
  noReset : NoReset s
  held : movesAfterBusy s.host = s.host

theorem undisturbed_of_nil {s : State} (hm : s.mode = .busy) (hh : s.host = []) : Undisturbed s :=
  ⟨hm, by simp [NoReset, hh], by simp [movesAfterBusy, hh]⟩

theorem Undisturbed.of_fields {s t : State} (h : Undisturbed s) (hm : t.mode = s.mode) (hh : t.host = s.host) :
    Undisturbed t :=
  ⟨hm.trans h.busy, by simpa [NoReset, hh] using h.noReset, by rw [hh, h.held]⟩

theorem Undisturbed.step_eq {s : State} {a : MicroAct} (h : Undisturbed s) (ha : currentAct s = some a) :
    step s = runAct a s := by
  rw [step_of_act h.noReset h.busy ha, h.held]
  rfl

/-- A run of `a` steps, then one of `b`. -/
theorem runSteps_trans {a b : Nat} {s t u : State} (h : runSteps a s = .next t) (h' : runSteps b t = .next u) :
    runSteps (a + b) s = .next u := by
  rw [runSteps_add, h]
  exact h'

/-! ## The rows of R131 -/

theorem currentAct_of_transmitAt {s : State} {k : Nat} (h : transmitAt s = some k) :
    currentAct s = transmitAct s.regCount k := by
  cases hop : s.seqOp with
  | none => simp [transmitAt, hop] at h
  | transmit => simp_all [transmitAt, currentAct]
  | construct =>
    simp only [transmitAt, hop, Option.ite_none_right_eq_some, Option.some.injEq] at h
    have hupc : s.upc = k + 4 := by omega
    simp [currentAct, hop, hupc, constructAct]

/-- The counter's advance inside a transmission (R27). -/
theorem transmitAt_advance {s t : State} {k d : Nat} (h : transmitAt s = some k) (hop : t.seqOp = s.seqOp)
    (hupc : t.upc = s.upc + d) : transmitAt t = some (k + d) := by
  cases e : s.seqOp with
  | none => simp [transmitAt, e] at h
  | transmit => simp_all [transmitAt]
  | construct =>
    simp only [transmitAt, hop, hupc, e, Option.ite_none_right_eq_some, Option.some.injEq] at h ⊢
    omega

/-- Row `k` of R131 is next, under TRANSMIT or CONSTRUCT, on a block whose `N` fits the buffer. -/
structure Transmitting (s : State) (k : Nat) : Prop extends Undisturbed s where
  row : transmitAt s = some k
  fits : s.regCount ≤ s.cfg.maxRegs

/-- The row reads only these fields. -/
theorem Transmitting.advance {s t : State} {k d : Nat} (h : Transmitting s k) (hm : t.mode = s.mode)
    (hh : t.host = s.host) (hop : t.seqOp = s.seqOp) (hupc : t.upc = s.upc + d) (hn : t.regCount = s.regCount)
    (hcfg : t.cfg = s.cfg) : Transmitting t (k + d) :=
  ⟨h.toUndisturbed.of_fields hm hh, transmitAt_advance h.row hop hupc, by rw [hn, hcfg]; exact h.fits⟩

theorem Transmitting.step_eq {s : State} {k : Nat} {a : MicroAct} (h : Transmitting s k)
    (ha : transmitAct s.regCount k = some a) : step s = runAct a s :=
  h.toUndisturbed.step_eq ((currentAct_of_transmitAt h.row).trans ha)

/-- A row that writes a line. -/
theorem Transmitting.write {s : State} {k : Nat} {l : Line} {lvl : Level} (h : Transmitting s k)
    (ha : transmitAct s.regCount k = some (.write l lvl)) :
    step s = .next (pinWrite l lvl s).nextUpc ∧ Transmitting (pinWrite l lvl s).nextUpc (k + 1) :=
  ⟨h.step_eq ha, h.advance (by simp) (by simp) (by simp) (by simp) (by simp) (by simp)⟩

/-- The row that sends a bit. -/
theorem Transmitting.sendBit {s : State} {j : Nat} (h : Transmitting s (2 + 3 * j)) (hj : j < s.outputCount) :
    step s = .next (pinWrite .sdata (levelOf (s.out (s.outputCount - 1 - j))) s).nextUpc ∧
      Transmitting (pinWrite .sdata (levelOf (s.out (s.outputCount - 1 - j))) s).nextUpc (2 + 3 * j + 1) :=
  ⟨(h.step_eq (transmitAct_sendBit hj)).trans (runAct_sendBit hj h.fits),
    h.advance (by simp) (by simp) (by simp) (by simp) (by simp) (by simp)⟩

/-! ## What the writes of a transmission leave -/

theorem pinWrite_sclk_low (s : State) :
    pinWrite .sclk .low s =
      { s with
        lines := s.lines.set .sclk { s.lines.sclk with level := .known .low }
        trace := s.trace ++ [.write .sclk .low] } := rfl

theorem pinWrite_sdata (lvl : Level) (s : State) :
    pinWrite .sdata lvl s =
      { s with
        lines := s.lines.set .sdata { s.lines.sdata with level := .known lvl }
        trace := s.trace ++ [.write .sdata lvl] } := rfl

/-- The rise of SCLK shifts the known level of SDATA in, and draws nothing (R181). -/
theorem pinWrite_sclk_rise {s : State} {d : Level} (hc : s.lines.sclk.level = .known .low)
    (hd : s.lines.sdata.level = .known d) :
    pinWrite .sclk .high s =
      { s with
        lines := s.lines.set .sclk { s.lines.sclk with level := .known .high }
        trace := s.trace ++ [.write .sclk .high]
        stages := shiftStages (decide (d = .high)) s.stages } := by
  rw [pinWrite_frame, pinWrite_sclk_stages, pinWrite_sclk_draws, State.sampledBit, State.sampleDraws, hc, hd]
  simp [LineLevel.physical, isRising]

/-- The rise of LATCH copies the stages (R182). -/
theorem pinWrite_latch_rise {s : State} (h : s.lines.latch.level = .known .low) :
    pinWrite .latch .high s =
      { s with
        lines := s.lines.set .latch { s.lines.latch with level := .known .high }
        trace := s.trace ++ [.write .latch .high]
        outs := s.stages } := by
  rw [pinWrite_frame, pinWrite_latch_outs, h]
  simp [LineLevel.physical, isRising]

/-! ## One bit (R131, steps `1 + 3j` to `3 + 3j`) -/

/-- SCLK LOW, SDATA at the bit, SCLK HIGH. -/
def State.sendBit (s : State) (bit : Bool) : State :=
  (pinWrite .sclk .high (pinWrite .sdata (levelOf bit) (pinWrite .sclk .low s).nextUpc).nextUpc).nextUpc

/-- The chain shifts once, by the bit. -/
theorem State.sendBit_eq (s : State) (bit : Bool) :
    s.sendBit bit =
      { s with
        upc := s.upc + 3
        lines :=
          { sdata := { s.lines.sdata with level := .known (levelOf bit) }
            sclk := { s.lines.sclk with level := .known .high }
            latch := s.lines.latch }
        trace := s.trace ++ bitEvents bit
        stages := shiftStages bit s.stages } := by
  have hbit : decide (levelOf bit = .high) = bit := by cases bit <;> decide
  rw [State.sendBit, pinWrite_sclk_rise (d := levelOf bit) (by simp) (by simp), pinWrite_sdata, pinWrite_sclk_low, hbit]
  simp [State.nextUpc, bitEvents, Lines.set]

theorem Transmitting.runSteps_bit {s : State} {j : Nat} (h : Transmitting s (1 + 3 * j)) (hj : j < s.outputCount) :
    runSteps 3 s = .next (s.sendBit (s.out (s.outputCount - 1 - j))) := by
  obtain ⟨hlow, h⟩ := h.write (transmitAct_clockLow hj)
  rw [show 1 + 3 * j + 1 = 2 + 3 * j by omega] at h
  obtain ⟨hdata, h⟩ := h.sendBit (by simpa using hj)
  rw [show 2 + 3 * j + 1 = 3 + 3 * j by omega] at h
  obtain ⟨hhigh, -⟩ := h.write (transmitAct_clockHigh (by simpa [State.outputCount] using hj))
  rw [runSteps_of_step hlow, runSteps_of_step hdata, runSteps_of_step hhigh]
  simp [runSteps, State.sendBit]

/-! ## All the bits -/

/-- LATCH driven LOW, then the first `m` bits of the buffer sent (R131, steps `0` to `3m`). -/
def State.afterBits (s : State) : Nat → State
  | 0 => (pinWrite .latch .low s).nextUpc
  | m + 1 => (s.afterBits m).sendBit (s.out (s.outputCount - 1 - m))

/-- Sending bits writes the counter, the lines, `TRACE` and the stages only. -/
theorem State.afterBits_frame (s : State) (m : Nat) :
    s.afterBits m =
      { s with
        upc := s.upc + (1 + 3 * m)
        lines := (s.afterBits m).lines
        trace := s.trace ++ .write .latch .low ::
          (List.range m).flatMap fun j => bitEvents (s.out (s.outputCount - 1 - j))
        stages := (s.afterBits m).stages } := by
  induction m with
  | zero => rfl
  | succ m ih =>
    rw [State.afterBits, State.sendBit_eq, ih]
    simp [List.range_succ, Nat.mul_succ, Nat.add_assoc]

/-- After a bit SDATA holds it, SCLK is HIGH and LATCH still LOW (R131). -/
theorem State.afterBits_succ_lines (s : State) (m : Nat) :
    (s.afterBits (m + 1)).lines =
      { sdata := { s.lines.sdata with level := .known (levelOf (s.out (s.outputCount - 1 - m))) }
        sclk := { s.lines.sclk with level := .known .high }
        latch := { s.lines.latch with level := .known .low } } := by
  induction m with
  | zero => rw [State.afterBits, State.sendBit_eq]; rfl
  | succ m ih => rw [State.afterBits, State.sendBit_eq, ih]

/-- The `m` bits sent so far are in the first `m` stages, the last one sent in front (R181, R186). -/
theorem State.afterBits_stages {s : State} {m : Nat} (hlen : s.stages.length = s.outputCount)
    (hm : m ≤ s.outputCount) :
    (s.afterBits m).stages.length = s.outputCount ∧
      ∀ i < m, (s.afterBits m).stages[i]? = some (s.out (s.outputCount - m + i)) := by
  induction m with
  | zero => exact ⟨hlen, by simp⟩
  | succ m ih =>
    obtain ⟨hl, hbits⟩ := ih (by omega)
    rw [State.afterBits, State.sendBit_eq]
    refine ⟨by simp [hl], fun i hi => ?_⟩
    rw [shiftStages_getElem? _ _ (by omega)]
    split
    · congr 2; omega
    · rw [hbits (i - 1) (by omega)]; congr 2; omega

/-- When every bit is sent the stages are the logical outputs (R186). -/
theorem State.afterBits_all_stages {s : State} (hlen : s.stages.length = s.outputCount) :
    (s.afterBits s.outputCount).stages = (List.range s.outputCount).map s.out := by
  obtain ⟨hl, hbits⟩ := State.afterBits_stages hlen (Nat.le_refl _)
  refine List.ext_getElem? fun i => ?_
  by_cases hi : i < s.outputCount
  · simp [hbits i hi, hi]
  · simp [hl, Nat.le_of_not_lt hi]

@[simp] theorem State.afterBits_regCount (s : State) (m : Nat) : (s.afterBits m).regCount = s.regCount := by
  rw [s.afterBits_frame]; rfl

@[simp] theorem State.afterBits_outputCount (s : State) (m : Nat) : (s.afterBits m).outputCount = s.outputCount := by
  rw [s.afterBits_frame]; rfl

@[simp] theorem State.afterBits_out (s : State) (m i : Nat) : (s.afterBits m).out i = s.out i := by
  rw [s.afterBits_frame]; rfl

theorem Transmitting.afterBits {s : State} (h : Transmitting s 0) (m : Nat) :
    Transmitting (s.afterBits m) (1 + 3 * m) := by
  rw [← Nat.zero_add (1 + 3 * m), s.afterBits_frame m]
  exact h.advance rfl rfl rfl rfl rfl rfl

theorem Transmitting.runSteps_bits {s : State} {m : Nat} (h : Transmitting s 0) (hm : m ≤ s.outputCount) :
    runSteps (1 + 3 * m) s = .next (s.afterBits m) := by
  induction m with
  | zero =>
    obtain ⟨hlatch, -⟩ := h.write (transmitAct_first _)
    exact runSteps_of_step hlatch 0
  | succ m ih =>
    have hbit := (h.afterBits m).runSteps_bit (by simpa using hm)
    rw [State.afterBits_out, State.afterBits_outputCount] at hbit
    exact runSteps_trans (a := 1 + 3 * m) (ih (by omega)) hbit

/-! ## The events of a transmission -/

/-- Only the logical outputs of the chain are sent (R132). -/
theorem transmitEvents_congr {n : Nat} {out out' : Nat → Bool} (h : ∀ i < 8 * n, out i = out' i) :
    transmitEvents n out = transmitEvents n out' := by
  have hbits : ∀ j ∈ List.range (8 * n), bitEvents (out (8 * n - 1 - j)) = bitEvents (out' (8 * n - 1 - j)) := by
    intro j hj
    rw [h _ (by have := List.mem_range.mp hj; omega)]
  rw [transmitEvents, transmitEvents, List.flatMap_congr hbits]

theorem transmitEvents_length (n : Nat) (out : Nat → Bool) : (transmitEvents n out).length = 24 * n + 2 := by
  obtain ⟨hlen, -⟩ := bitsEvents_get (fun j => out (8 * n - 1 - j)) (8 * n)
  simp only [transmitEvents, List.length_cons, List.length_append, hlen, List.length_nil]
  omega

/-! ## A whole transmission -/

/-- The block after its transmission: the outputs are the buffer's, the lines are where R31 leaves them. -/
def State.transmitted (s : State) : State :=
  { s with
    mode := .idle
    seqOp := .none
    upc := 0
    dirty := false
    resp := responseDone
    responses := s.responses ++ [responseDone]
    lines :=
      { sdata := { s.lines.sdata with level := .known (levelOf (s.out 0)) }
        sclk := { s.lines.sclk with level := .known .high }
        latch := { s.lines.latch with level := .known .high } }
    trace := s.trace ++ transmitEvents s.regCount s.out
    stages := (List.range s.outputCount).map s.out
    outs := (List.range s.outputCount).map s.out }

/-- When every bit is sent SDATA holds logical output 0 (R132). -/
theorem State.afterBits_all_lines {s : State} (h1 : 1 ≤ s.regCount) :
    (s.afterBits s.outputCount).lines =
      { sdata := { s.lines.sdata with level := .known (levelOf (s.out 0)) }
        sclk := { s.lines.sclk with level := .known .high }
        latch := { s.lines.latch with level := .known .low } } := by
  have hcount : 1 ≤ s.outputCount := by simp only [State.outputCount]; omega
  have hlast := s.afterBits_succ_lines (s.outputCount - 1)
  rwa [Nat.sub_add_cancel hcount, Nat.sub_self] at hlast

/-- The last two steps: the rise of LATCH copies the stages, and the sequence ends (R131, R137, R182). -/
theorem State.finishSequence_afterBits {s : State} (h1 : 1 ≤ s.regCount) (hlen : s.stages.length = s.outputCount) :
    finishSequence (pinWrite .latch .high (s.afterBits s.outputCount)).nextUpc = s.transmitted := by
  have hlines := State.afterBits_all_lines h1
  rw [pinWrite_latch_rise (by rw [hlines]), s.afterBits_frame, hlines, State.afterBits_all_stages hlen]
  simp [finishSequence, State.nextUpc, State.clearDirty, State.respond, State.transmitted, transmitEvents, Lines.set,
    State.outputCount]

/-- A transmission, from its step 0 to its last micro-step, under TRANSMIT or CONSTRUCT (R131, R141, R186). -/
theorem Transmitting.runSteps_transmission {s : State} (h : Transmitting s 0) (h1 : 1 ≤ s.regCount)
    (hlen : s.stages.length = s.outputCount) : runSteps (24 * s.regCount + 3) s = .next s.transmitted := by
  have hbits := h.runSteps_bits (Nat.le_refl _)
  have hrow := h.afterBits s.outputCount
  rw [show 1 + 3 * s.outputCount = 24 * s.regCount + 1 by simp only [State.outputCount]; omega] at hbits hrow
  obtain ⟨hlatch, hrow⟩ := hrow.write (by rw [State.afterBits_regCount]; exact transmitAct_latch _)
  have hfinish := hrow.step_eq (a := .finish) (by simpa using transmitAct_finish s.regCount)
  refine runSteps_trans (a := 24 * s.regCount + 1) (b := 2) hbits ?_
  rw [runSteps_of_step hlatch, runSteps_of_step hfinish]
  exact congrArg Host.Outcome.next (State.finishSequence_afterBits h1 hlen)

/-! ## The steps of a construction before its transmission (R100, R102, R103) -/

/-- The action of row `u` of R100. -/
theorem currentAct_of_construct {s : State} {u : Nat} {a : MicroAct} (hop : s.seqOp = .construct) (hupc : s.upc = u)
    (ha : constructAct s.regCount u = some a) : currentAct s = some a := by
  simp [currentAct, hop, hupc, ha]

/-- Micro-step `u` of a construction is next, on a block whose `N` fits the buffer. -/
structure Constructing (s : State) (u : Nat) : Prop extends Undisturbed s where
  op : s.seqOp = .construct
  row : s.upc = u
  fits : s.regCount ≤ s.cfg.maxRegs

/-- A row that configures a line. -/
theorem Constructing.configure {s : State} {u : Nat} {l : Line} (h : Constructing s u)
    (ha : constructAct s.regCount u = some (.configure l)) :
    step s = .next (pinConfigure l s).nextUpc ∧ Constructing (pinConfigure l s).nextUpc (u + 1) :=
  ⟨h.step_eq (currentAct_of_construct h.op h.row ha),
    { h.of_fields (t := (pinConfigure l s).nextUpc) (by simp) (by simp) with
      op := by simp [h.op]
      row := by simp [h.row]
      fits := by simpa using h.fits }⟩

/-- The zeroing row. -/
theorem Constructing.zeroBuffer {s : State} (h : Constructing s 3) :
    step s = .next (s.setBuf (s.buf.fill s.regCount (fillByte false))).markDirty.nextUpc :=
  (h.step_eq (currentAct_of_construct h.op h.row rfl)).trans (runAct_zeroBuffer h.fits)

/-- The four steps done: the lines are configured and not yet written, the chain is drawn, the buffer is zeroed. -/
def State.prepared (s : State) : State :=
  { s with
    upc := s.upc + 4
    buf := s.buf.fill s.regCount (fillByte false)
    dirty := true
    lines :=
      { sdata := { cfg := .out, level := .unknown (Config.initLevel s.draws) }
        sclk := { cfg := .out, level := .unknown (Config.initLevel (s.draws + 2)) }
        latch := { cfg := .out, level := .unknown (Config.initLevel (s.draws + 4)) } }
    trace := s.trace ++ [.config .sdata, .config .sclk, .config .latch]
    stages := freeBits (s.draws + 3) s.regCount
    outs := freeBits (s.draws + 5) s.regCount
    draws := s.draws + 6 }

/-- The four steps of R100, one after the other. -/
theorem State.prepared_eq (s : State) :
    let c := (pinConfigure .latch (pinConfigure .sclk (pinConfigure .sdata s).nextUpc).nextUpc).nextUpc
    (c.setBuf (c.buf.fill c.regCount (fillByte false))).markDirty.nextUpc = s.prepared := by
  simp only [State.nextUpc_buf, pinConfigure_buf, State.nextUpc_regCount, pinConfigure_regCount]
  rw [pinConfigure_frame .latch, pinConfigure_frame .sclk, pinConfigure_frame .sdata]
  simp [State.setBuf, State.markDirty, State.nextUpc, State.prepared, Lines.set, State.regCount]

theorem Constructing.runSteps_prepared {s : State} (h : Constructing s 0) : runSteps 4 s = .next s.prepared := by
  obtain ⟨hsdata, h⟩ := h.configure rfl
  obtain ⟨hsclk, h⟩ := h.configure rfl
  obtain ⟨hlatch, h⟩ := h.configure rfl
  rw [runSteps_of_step hsdata, runSteps_of_step hsclk, runSteps_of_step hlatch, runSteps_of_step h.zeroBuffer]
  exact congrArg Host.Outcome.next s.prepared_eq

/-- Every logical output of a prepared block is 0 (R103). -/
theorem State.prepared_out {s : State} (hwf : s.buf.wf = true) {i : Nat} (hi : i < 8 * s.regCount) :
    s.prepared.out i = false := by
  rw [← State.out_congr (s := s.prepared) (t := s.setBuf (s.buf.fill s.regCount (fillByte false))) rfl,
    out_fill hwf, if_pos hi]

/-- A line an output, at a level it was driven to. -/
def LineState.driven (lvl : Level) : LineState := { cfg := .out, level := .known lvl }

/-- The known-low state (R105): the whole effect of a construction's micro-steps. -/
def State.constructed (s : State) : State :=
  { s with
    mode := .idle
    seqOp := .none
    upc := 0
    buf := s.buf.fill s.regCount (fillByte false)
    dirty := false
    resp := responseDone
    responses := s.responses ++ [responseDone]
    lines := { sdata := LineState.driven .low, sclk := LineState.driven .high, latch := LineState.driven .high }
    trace := s.trace ++ constructEvents s.regCount
    stages := List.replicate (8 * s.regCount) false
    outs := List.replicate (8 * s.regCount) false
    draws := s.draws + 6 }

theorem State.constructed_read {s : State} (hwf : s.buf.wf = true) (a : Nat) :
    s.constructed.buf.read a = if a < s.regCount then 0x00 else s.buf.read a :=
  Memory.read_fill s.regCount a (fillByte false) hwf

/-- The transmission of the zeroed buffer brings the chain and the lines to the known-low state (R104, R105). -/
theorem State.prepared_transmitted {s : State} (hwf : s.buf.wf = true) (h1 : 1 ≤ s.regCount) :
    s.prepared.transmitted = s.constructed := by
  have hbits : (List.range (8 * s.regCount)).map s.prepared.out = List.replicate (8 * s.regCount) false := by
    refine List.eq_replicate_iff.mpr ⟨by simp, fun b hb => ?_⟩
    obtain ⟨i, hi, rfl⟩ := List.mem_map.mp hb
    exact State.prepared_out hwf (List.mem_range.mp hi)
  have hlast : s.prepared.out 0 = false := State.prepared_out hwf (by omega)
  have hevents : transmitEvents s.regCount s.prepared.out = transmitEvents s.regCount fun _ => false :=
    transmitEvents_congr fun i hi => State.prepared_out hwf hi
  have hn : s.prepared.regCount = s.regCount := rfl
  simp only [State.transmitted, State.outputCount, hn, hbits, hlast, hevents]
  simp [State.prepared, State.constructed, constructEvents, LineState.driven, levelOf]

/-- The micro-steps of a construction (R107), from the state its accepting step leaves. -/
theorem Constructing.runSteps_constructed {s : State} (h : Constructing s 0) (hwf : s.buf.wf = true)
    (h1 : 1 ≤ s.regCount) : runSteps (24 * s.regCount + 7) s = .next s.constructed := by
  have htransmitting : Transmitting s.prepared 0 :=
    { h.of_fields (t := s.prepared) rfl rfl with
      row := by simp [transmitAt, State.prepared, h.op, h.row]
      fits := h.fits }
  have hsend := htransmitting.runSteps_transmission h1 (by simp [State.prepared, State.outputCount, State.regCount])
  rw [State.prepared_transmitted hwf h1] at hsend
  rw [show 24 * s.regCount + 7 = 4 + (24 * s.regCount + 3) by omega]
  exact runSteps_trans h.runSteps_prepared hsend

/-! ## The accepting step (R100) -/

/-- The word of a CONSTRUCT spells it (R73). -/
theorem decode_encode_construct {n : Nat} (h : n < 2 ^ 16) :
    decode (encode (.construct n)) = .command (.construct n) := by
  rw [encode, decode_packWord]
  simpa [decodeOp] using h

theorem execConstruct_of_legal {n : Nat} {s : State} (hm : s.mode = .unconfigured) (hl : legalCount s.cfg n = true) :
    execConstruct n s = .next (startSequence .construct (s.setCount n)) := by
  rw [execConstruct, whenUnconfigured_unconfigured _ hm, if_pos hl]

/-- A block that is presented the word of a legal CONSTRUCT starts its sequence. -/
theorem step_of_construct {n : Nat} {s : State} {rest : List HostMove} (hm : s.mode = .unconfigured) (hn : n < 2 ^ 16)
    (hl : legalCount s.cfg n = true) (hh : s.host = .present (encode (.construct n)) :: rest) :
    step s = .next (startSequence .construct ((s.setHost rest).setCount n)) := by
  rw [step_of_present (by simp [hm]) hh, acceptWord, decode_encode_construct hn]
  exact execConstruct_of_legal hm hl

/-- The block after the accepting step of CONSTRUCT(n), the host's last move (R100). -/
def State.accepted (s : State) (n : Nat) : State := startSequence .construct ((s.setHost []).setCount n)

theorem State.accepted_regCount {s : State} {n : Nat} (hc : configOk s.cfg = true) (hl : legalCount s.cfg n = true) :
    (s.accepted n).regCount = n :=
  (setCount_regCount (s := s.setHost []) hc hl).1

/-- The accepting step leaves the first micro-step next. -/
theorem constructing_accepted {n : Nat} {s : State} (hle : (s.accepted n).regCount ≤ s.cfg.maxRegs) :
    Constructing (s.accepted n) 0 :=
  { undisturbed_of_nil (s := s.accepted n) rfl rfl with
    op := rfl
    row := rfl
    fits := hle }

/-- A legal CONSTRUCT, from the accepting step to the last micro-step (R105, R107). -/
theorem runSteps_construct {n : Nat} {s : State} (hc : configOk s.cfg = true) (hwf : s.buf.wf = true)
    (hm : s.mode = .unconfigured) (hl : legalCount s.cfg n = true)
    (hh : s.host = [.present (encode (.construct n))]) :
    runSteps (1 + (24 * n + 7)) s = .next (s.accepted n).constructed := by
  have hn := State.accepted_regCount hc hl
  obtain ⟨-, h1, hle⟩ := setCount_regCount hc hl
  obtain ⟨-, hmax⟩ := configOk_maxRegs hc
  have haccept : step s = .next (s.accepted n) := step_of_construct hm (by omega) hl hh
  have hmicro := (constructing_accepted (hn.trans_le hle)).runSteps_constructed hwf (h1.trans_eq hn.symm)
  rw [hn] at hmicro
  exact runSteps_trans (runSteps_of_step haccept 0) hmicro

end Sys2Proof.Machine

namespace Sys2Proof.Safety

open Sys2Proof.Machine

/-- Settles O45: each row of R100 up to `upc = 3` is the next action. -/
theorem constructPrefixConfiguresAndZeroes : Obligations.ConstructPrefixConfiguresAndZeroes := by
  intro s hr hm hop hbuf hle u
  have hrow : ∀ {k a}, s.upc = k → constructAct s.regCount k = some a →
      step s = runAct a (s.setHost (movesAfterBusy s.host)) :=
    fun hk ha => step_of_act hr hm (currentAct_of_construct hop hk ha)
  refine ⟨fun h0 => ⟨_, hrow h0 rfl⟩, fun h1 => ⟨_, hrow h1 rfl⟩, fun h2 => ⟨_, hrow h2 rfl⟩, fun h3 => ?_⟩
  obtain ⟨hwf, -⟩ := hbuf
  refine ⟨_, s.buf.fill s.regCount (fillByte false), (hrow h3 rfl).trans (runAct_zeroBuffer hle),
    fun a ha => ?_, fun a ha => ?_⟩
  · rw [Memory.read_fill _ _ _ hwf, if_pos ha]; rfl
  · rw [Memory.read_fill _ _ _ hwf, if_neg (Nat.not_lt.mpr ha)]

/-- The events of a construction: three configurations and the transmission (R107). -/
theorem constructEvents_length (n : Nat) : (constructEvents n).length = 24 * n + 5 := by
  simp [constructEvents, transmitEvents_length]

/-- Settles O47: the accepting step, then the micro-steps up to the known-low state `State.constructed`. -/
theorem constructEndsInTheKnownLowState : Obligations.ConstructEndsInTheKnownLowState := by
  intro n s hi hm h1 hle hh
  obtain ⟨hwf, -⟩ := hi.buffer
  have hl : legalCount s.cfg n = true := by simp [legalCount, h1, hle]
  have hn := State.accepted_regCount hi.config hl
  have hbuf := State.constructed_read (s := s.accepted n) hwf
  rw [hn] at hbuf
  refine ⟨_, runSteps_construct hi.config hwf hm hl hh, rfl, hn, ?zeroed, ?above, rfl, rfl, rfl, rfl, rfl, rfl, rfl,
    rfl, rfl, rfl, ?stages, ?outs, ?events, constructEvents_length n, rfl, rfl⟩
  case zeroed => intro a ha; rw [hbuf, if_pos ha]
  case above => intro a ha; rw [hbuf, if_neg (Nat.not_lt.mpr ha)]; rfl
  case stages | outs => rw [State.constructed, hn]
  case events => rw [State.constructed, hn]; rfl

end Sys2Proof.Safety

/-! # Buffer commands (41_buffer.md), and their read-back through a TRANSMIT (R117) -/

namespace Sys2Proof.Machine

open Sys2Proof.Safety

/-! ## The meanings on a constructed block -/

/-- The block after SETPIN, SETALL or CLEAR succeeded and left the buffer `m` (R110, R112, R114). -/
def State.mutated (s : State) (m : Memory) : State := (s.setBuf m).markDirty.respond responseDone

/-- The buffer after one logical output is set (R110). -/
def Memory.setOutput (m : Memory) (index : Nat) (value : Bool) : Memory :=
  m.write (byteIndex index) (updateBit (m.read (byteIndex index)) (bitIndex index) value)

/-- The byte of the output takes the bit in its place (R110). -/
theorem Memory.read_setOutput_getLsbD {m : Memory} (h : m.wf = true) (index : Nat) (value : Bool) {b : Nat}
    (hb : b < 8) :
    ((m.setOutput index value).read (byteIndex index)).getLsbD b =
      if b = bitIndex index then value else (m.read (byteIndex index)).getLsbD b := by
  rw [setOutput, read_write _ _ _ h, if_pos rfl, updateBit_getLsbD _ _ (bitIndex_lt index) hb]

/-- No other byte changes (R110). -/
theorem Memory.read_setOutput_of_ne {m : Memory} (h : m.wf = true) {index a : Nat} (value : Bool)
    (ha : a ≠ byteIndex index) : (m.setOutput index value).read a = m.read a := by
  rw [setOutput, read_write _ _ _ h, if_neg ha]

/-- The record NotConstructed writes (R160, R165). -/
theorem whenConstructed_recordFault {s : State} (a : Answer) (hm : s.mode = .unconfigured) :
    whenConstructed s a = .next (recordFault 0x4 s) := by
  rw [whenConstructed_unconfigured _ hm, raiseFault_eq_recordFault, FaultCode.code]

theorem execSetpin_of_lt {index : Nat} {value : Bool} {s : State} (hm : s.mode = .idle)
    (hi : index < s.outputCount) (hle : s.regCount ≤ s.cfg.maxRegs) :
    execSetpin index value s = .next (s.mutated (s.buf.setOutput index value)) := by
  have hk : byteIndex index < s.cfg.maxRegs := Nat.lt_of_lt_of_le (byteIndex_lt hi) hle
  rw [execSetpin, whenConstructed_idle _ hm, if_neg (Nat.not_le.mpr hi), loadByte_of_lt _ hk, storeByte_of_lt _ _ hk]
  rfl

theorem execSetpin_of_le {index : Nat} {value : Bool} {s : State} (hm : s.mode = .idle)
    (hi : s.outputCount ≤ index) : execSetpin index value s = .next (recordFault 0x2 s) := by
  rw [execSetpin, whenConstructed_idle _ hm, if_pos hi, faulted, raiseFault_eq_recordFault, FaultCode.code]

theorem execSetall_of_idle {value : Bool} {s : State} (hm : s.mode = .idle) (hle : s.regCount ≤ s.cfg.maxRegs) :
    execSetall value s = .next (s.mutated (s.buf.fill s.regCount (fillByte value))) := by
  rw [execSetall, whenConstructed_idle _ hm, fillBuffer_of_le _ _ hle]
  rfl

/-- CLEAR is SETALL 0 (R115). -/
theorem execClear_eq_execSetall_false (s : State) : execClear s = execSetall false s := rfl

/-- The commands of 41_buffer.md. -/
def IsBufferCommand (i : Instr) : Prop := (∃ index v, i = .setpin index v) ∨ (∃ v, i = .setall v) ∨ i = .clear

/-- A buffer command that answers is a fault or writes the buffer, `DIRTY` and the response. -/
theorem IsBufferCommand.exec_next {i : Instr} {s t : State} (hi : IsBufferCommand i) (h : exec i s = .next t) :
    (∃ c, t = raiseFault c s) ∨ ∃ m, t = s.mutated m := by
  have hsetall : ∀ {v}, execSetall v s = .next t → (∃ c, t = raiseFault c s) ∨ ∃ m, t = s.mutated m := by
    intro v h
    rcases execSetall_next h with ⟨-, e⟩ | ⟨-, -, e⟩
    · exact .inl ⟨_, e⟩
    · exact .inr ⟨_, e⟩
  rcases hi with ⟨index, v, rfl⟩ | ⟨v, rfl⟩ | rfl
  · rcases execSetpin_next h with ⟨-, e⟩ | ⟨-, -, e⟩ | ⟨-, -, -, e⟩
    · exact .inl ⟨_, e⟩
    · exact .inl ⟨_, e⟩
    · exact .inr ⟨_, e⟩
  · exact hsetall h
  · exact hsetall ((execClear_eq_execSetall_false s).symm.trans h)

/-! ## The words of the commands (R73) -/

theorem decode_encode_setpin {index : Nat} (value : Bool) (h : index < 2 ^ 16) :
    decode (encode (.setpin index value)) = .command (.setpin index value) := by
  rw [encode, decode_packWord]
  simpa [decodeOp] using h

theorem decode_encode_setall (value : Bool) : decode (encode (.setall value)) = .command (.setall value) := by
  rw [encode, decode_packWord]
  rfl

theorem encode_clear : encode .clear = 0x30000000#32 := by decide

theorem decode_encode_clear : decode (encode .clear) = .command .clear := by
  rw [encode, decode_packWord]
  rfl

/-- A word that spells a command runs the command's meaning (R74). -/
theorem acceptWord_of_command {w : Word} {i : Instr} (h : decode w = .command i) (s : State) :
    acceptWord w s = exec i s := by
  simp [acceptWord, h]

/-! ## A TRANSMIT, from its accepting step to its last micro-step (R130, R131) -/

theorem step_of_transmit {s : State} {rest : List HostMove} (hm : s.mode = .idle)
    (hh : s.host = .present 0x40000000#32 :: rest) : step s = .next (startSequence .transmit (s.setHost rest)) := by
  have hd : decode 0x40000000#32 = .command .transmit := by decide
  rw [step_of_present (by simp [hm]) hh, acceptWord_of_command hd]
  exact whenConstructed_idle _ hm

/-- A TRANSMIT that is the host's last move. -/
theorem runSteps_transmit {s : State} (hm : s.mode = .idle) (h1 : 1 ≤ s.regCount) (hle : s.regCount ≤ s.cfg.maxRegs)
    (hlen : s.stages.length = s.outputCount) (hh : s.host = [.present 0x40000000#32]) :
    runSteps (1 + (24 * s.regCount + 3)) s = .next (startSequence .transmit (s.setHost [])).transmitted := by
  have htransmitting : Transmitting (startSequence .transmit (s.setHost [])) 0 :=
    { undisturbed_of_nil (s := startSequence .transmit (s.setHost [])) rfl rfl with
      row := rfl
      fits := hle }
  exact runSteps_trans (runSteps_of_step (step_of_transmit hm hh) 0) (htransmitting.runSteps_transmission h1 hlen)

/-- After a transmission every parallel output shows its logical output (R186, R189). -/
theorem outputLevel_transmitted {s : State} {i : Nat} (hi : i < s.outputCount) :
    outputLevel s.transmitted i = some (levelOf (s.out i)) := by
  rw [outputLevel, if_pos ⟨rfl, hi⟩]
  simp [State.transmitted, hi]

end Sys2Proof.Machine

namespace Sys2Proof.Safety

open Sys2Proof.Machine

/-- A buffer command and the TRANSMIT after it: the outputs show the buffer the command left (R117). -/
theorem Inv.runSteps_mutated_transmit {s : State} {w : Word} {rest : List HostMove} {m : Memory} (hi : Inv s)
    (hm : s.mode = .idle) (hh : s.host = .present w :: rest) (hrest : rest = [.present 0x40000000#32])
    (hw : acceptWord w (s.setHost rest) = .next ((s.setHost rest).mutated m)) :
    ∃ t, runSteps (2 + (24 * s.regCount + 3)) s = .next t ∧
      ∀ i < 8 * s.regCount, outputLevel t i = some (levelOf ((s.setBuf m).out i)) := by
  obtain ⟨h1, hle⟩ := hi.regCount_bounds (by simp [hm])
  obtain ⟨hlen, -⟩ := hi.chain
  have hstep := (step_of_present (by simp [hm]) hh).trans hw
  have hsend := runSteps_transmit (s := (s.setHost rest).mutated m) hm h1 hle hlen hrest
  rw [show 2 + (24 * s.regCount + 3) = 1 + (1 + (24 * s.regCount + 3)) by omega]
  exact ⟨_, runSteps_trans (runSteps_of_step hstep 0) hsend, fun _ h => outputLevel_transmitted h⟩

/-- Every legal index of SETPIN fits ARG (R5, R75). -/
theorem Inv.index_fitsArg {s : State} (hi : Inv s) (hm : s.mode = .idle) {index : Nat} (h : index < 8 * s.regCount) :
    fitsArg index := by
  obtain ⟨-, hle⟩ := hi.regCount_bounds (by simp [hm])
  obtain ⟨-, hmax⟩ := configOk_maxRegs hi.config
  show index < 2 ^ 16
  omega

/-- Settles O23, by mode and range: `Memory.setOutput` changes one bit of one byte. -/
theorem setpinWritesOneLogicalOutput : Obligations.SetpinWritesOneLogicalOutput := by
  intro index value s hbuf hle
  obtain ⟨hwf, -⟩ := hbuf
  refine ⟨whenConstructed_recordFault _, execSetpin_of_le, fun hm hi =>
    ⟨s.buf.setOutput index value, execSetpin_of_lt hm hi hle, ?bit, fun b hb hne => ?otherBits,
      fun a ha => ?otherBytes⟩⟩
  case bit => exact (Memory.read_setOutput_getLsbD hwf index value (bitIndex_lt index)).trans (if_pos rfl)
  case otherBits => exact (Memory.read_setOutput_getLsbD hwf index value hb).trans (if_neg hne)
  case otherBytes => exact Memory.read_setOutput_of_ne hwf value ha

/-- Settles O24, by mode: the fill writes the bytes below `N`. -/
theorem setallFillsTheBuffer : Obligations.SetallFillsTheBuffer := by
  intro value s hbuf hle
  obtain ⟨hwf, -⟩ := hbuf
  refine ⟨whenConstructed_recordFault _, fun hm =>
    ⟨s.buf.fill s.regCount (fillByte value), execSetall_of_idle hm hle, fun a ha => ?below, fun a ha => ?above⟩⟩
  case below => rw [Memory.read_fill _ _ _ hwf, if_pos ha, fillByte]
  case above => rw [Memory.read_fill _ _ _ hwf, if_neg (Nat.not_lt.mpr ha)]

/-- Settles O51: the buffer command's step, then the transmission of the buffer it left. -/
theorem transmittedBitsReadBackAtTheOutputs : Obligations.TransmittedBitsReadBackAtTheOutputs := by
  intro s hi hm
  obtain ⟨hwf, -⟩ := hi.buffer
  obtain ⟨-, hle⟩ := hi.regCount_bounds (by simp [hm])
  refine ⟨fun index v hindex hh => ?setpin, fun v hh => ?setall⟩
  case setpin =>
    have hd := decode_encode_setpin v (hi.index_fitsArg hm hindex)
    obtain ⟨t, hrun, hout⟩ := hi.runSteps_mutated_transmit hm hh rfl
      ((acceptWord_of_command hd _).trans (execSetpin_of_lt hm hindex hle))
    refine ⟨t, hrun, (hout index hindex).trans ?_⟩
    exact congrArg (some ∘ levelOf) ((out_write_updateBit hwf index index v).trans (if_pos rfl))
  case setall =>
    have hfill : ∃ w, s.host = [.present w, .present 0x40000000#32] ∧
        ∀ t, acceptWord w t = execSetall v t := by
      rcases hh with hh | ⟨rfl, hh⟩
      · exact ⟨_, hh, acceptWord_of_command (decode_encode_setall v)⟩
      · exact ⟨_, encode_clear ▸ hh, acceptWord_of_command decode_encode_clear⟩
    obtain ⟨w, hh, haccept⟩ := hfill
    obtain ⟨t, hrun, hout⟩ := hi.runSteps_mutated_transmit hm hh rfl
      ((haccept _).trans (execSetall_of_idle hm hle))
    refine ⟨t, hrun, fun i hlt => (hout i hlt).trans ?_⟩
    exact congrArg (some ∘ levelOf) ((out_fill hwf s.regCount i v).trans (if_pos hlt))

/-- Settles O26: the meanings are one, the words are told apart by OP. -/
theorem clearIsSetallFalse : Obligations.ClearIsSetallFalse :=
  ⟨execClear_eq_execSetall_false, by decide⟩

/-- Settles O27: neither a fault nor a written buffer touches a line or the chain. -/
theorem bufferCommandsIssueNoLineEvent : Obligations.BufferCommandsIssueNoLineEvent := by
  intro i s t hi h
  rcases IsBufferCommand.exec_next hi h with ⟨c, rfl⟩ | ⟨m, rfl⟩
  · exact ⟨rfl, rfl, rfl, rfl⟩
  · exact ⟨rfl, rfl, rfl, rfl⟩

end Sys2Proof.Safety

/-! # TRANSMIT (42_transmit.md): the events and the writes of a transmission, its micro-steps, and its whole effect -/

namespace Sys2Proof.Machine

open Sys2Proof.Safety

/-- Logical output `8k + b` is bit `b` of register `k` (R52). -/
theorem State.out_eq_bit (s : State) (k : Nat) {b : Nat} (hb : b < 8) :
    s.out (8 * k + b) = (s.buf.read k).getLsbD b := by
  have hk : (8 * k + b) / 8 = k := by omega
  have hb' : (8 * k + b) % 8 = b := by omega
  rw [State.out, byteIndex, bitIndex, hk, hb']

/-! ## A step that runs a row of R131, whatever the host's moves -/

/-- A write does not look at the counter or the host's moves. -/
theorem pinWrite_nextUpc_setHost (l : Line) (lvl : Level) (s : State) (moves : List HostMove) :
    (pinWrite l lvl (s.setHost moves)).nextUpc = (pinWrite l lvl s.nextUpc).setHost moves := by
  cases l with
  | sdata => rfl
  | sclk => simp only [pinWrite, State.chainReact, apply_ite State.nextUpc, apply_ite (State.setHost · moves)]; rfl
  | latch => rfl

/-- Row `k` of R131 is taken at `upc = k` under TRANSMIT, at `upc = 4 + k` under CONSTRUCT (R27, R131). -/
theorem transmitAt_of_upc {s : State} {k : Nat}
    (h : s.seqOp = .transmit ∧ s.upc = k ∨ s.seqOp = .construct ∧ s.upc = 4 + k) : transmitAt s = some k := by
  rcases h with ⟨hop, hupc⟩ | ⟨hop, hupc⟩ <;> simp [transmitAt, hop, hupc]

/-- A step that runs row `k` of R131, whatever the host's moves. -/
theorem step_of_row {s : State} {k : Nat} {a : MicroAct} (hr : NoReset s) (hm : s.mode = .busy)
    (hk : transmitAt s = some k) (ha : transmitAct s.regCount k = some a) :
    step s = runAct a (s.setHost (movesAfterBusy s.host)) :=
  step_of_act hr hm ((currentAct_of_transmitAt hk).trans ha)

/-- The row that writes a line. -/
theorem step_of_write_row {s : State} {k : Nat} {l : Line} {lvl : Level} (hr : NoReset s) (hm : s.mode = .busy)
    (hk : transmitAt s = some k) (ha : transmitAct s.regCount k = some (.write l lvl)) :
    step s = .next ((pinWrite l lvl s.nextUpc).setHost (movesAfterBusy s.host)) := by
  rw [step_of_row hr hm hk ha, ← pinWrite_nextUpc_setHost]
  rfl

/-- The row that sends bit `j`, which is logical output `8N - 1 - j` (R132). -/
theorem step_of_bit_row {s : State} {j : Nat} (hr : NoReset s) (hm : s.mode = .busy)
    (hk : transmitAt s = some (2 + 3 * j)) (hj : j < s.outputCount) (hle : s.regCount ≤ s.cfg.maxRegs) :
    step s = .next
      ((pinWrite .sdata (levelOf (s.out (s.outputCount - 1 - j))) s.nextUpc).setHost (movesAfterBusy s.host)) := by
  rw [step_of_row hr hm hk (transmitAct_sendBit hj), runAct_sendBit (s := s.setHost (movesAfterBusy s.host)) hj hle,
    pinWrite_nextUpc_setHost]
  rfl

end Sys2Proof.Machine

namespace Sys2Proof.Safety

open Sys2Proof.Machine

/-! ## The loops and the table (R131-R133) -/

/-- The inner loop sends the byte's eight bits, the highest first. -/
theorem registerEvents_eq (s : State) (k : Nat) :
    registerEvents (s.buf.read k) = (List.range 8).flatMap fun j => bitEvents (s.out (8 * k + (7 - j))) := by
  have hreverse : [7, 6, 5, 4, 3, 2, 1, 0] = (List.range 8).map (7 - ·) := by decide
  rw [registerEvents, hreverse, List.flatMap_map]
  refine List.flatMap_congr fun j _ => ?_
  rw [s.out_eq_bit k (by omega)]

/-- The outer loop over `n` registers sends the table's `8n` bits: the first eight are register `n - 1`'s, the
others those of the loop below it. -/
theorem registersEvents_eq (n : Nat) (s : State) :
    registersEvents s.buf n = (List.range (8 * n)).flatMap fun j => bitEvents (s.out (8 * n - 1 - j)) := by
  induction n with
  | zero => rfl
  | succ n ih =>
    rw [registersEvents, ih, registerEvents_eq, show 8 * (n + 1) = 8 + 8 * n by omega, List.range_add,
      List.flatMap_append, List.flatMap_map]
    congr 1
    · refine List.flatMap_congr fun j hj => ?_
      have hj8 := List.mem_range.mp hj
      rw [show 8 + 8 * n - 1 - j = 8 * n + (7 - j) by omega]
    · refine List.flatMap_congr fun j _ => ?_
      rw [show 8 + 8 * n - 1 - (8 + j) = 8 * n - 1 - j by omega]

/-- Settles O38, by the outer loop's induction. -/
theorem loopsAndTableGiveTheSameEvents : Obligations.LoopsAndTableGiveTheSameEvents := by
  intro n s
  rw [loopEvents, registersEvents_eq, transmitEvents]

/-! ## The writes of each line (R132, R140) -/

@[simp] theorem writesOf_append (l : Line) (a b : List LineEvent) :
    writesOf l (a ++ b) = writesOf l a ++ writesOf l b :=
  List.filterMap_append

/-- The writes of the bits, bit by bit. -/
theorem writesOf_flatMap (l : Line) (f : Nat → List LineEvent) (js : List Nat) :
    writesOf l (js.flatMap f) = js.flatMap fun j => writesOf l (f j) :=
  List.filterMap_flatMap

@[simp] theorem writesOf_latch_bitEvents (bit : Bool) : writesOf .latch (bitEvents bit) = [] := rfl

@[simp] theorem writesOf_sclk_bitEvents (bit : Bool) : writesOf .sclk (bitEvents bit) = [.low, .high] := rfl

@[simp] theorem writesOf_sdata_bitEvents (bit : Bool) : writesOf .sdata (bitEvents bit) = [levelOf bit] := rfl

/-- The writes of a transmission: the fall of LATCH, the bits, the rise of LATCH (R131). -/
theorem writesOf_transmitEvents (l : Line) (n : Nat) (out : Nat → Bool) :
    writesOf l (transmitEvents n out) =
      writesOf l [.write .latch .low] ++
        ((List.range (8 * n)).flatMap (fun j => writesOf l (bitEvents (out (8 * n - 1 - j)))) ++
          writesOf l [.write .latch .high]) := by
  rw [← writesOf_flatMap, ← writesOf_append, ← writesOf_append]
  rfl

theorem writesOf_latch_transmitEvents (n : Nat) (out : Nat → Bool) :
    writesOf .latch (transmitEvents n out) = [.low, .high] := by
  rw [writesOf_transmitEvents, List.flatMap_eq_nil_iff.mpr fun _ _ => writesOf_latch_bitEvents _]
  rfl

theorem writesOf_sclk_transmitEvents (n : Nat) (out : Nat → Bool) :
    writesOf .sclk (transmitEvents n out) = (List.range (8 * n)).flatMap fun _ => [.low, .high] := by
  simp only [writesOf_transmitEvents, writesOf_sclk_bitEvents]
  exact List.append_nil _

theorem writesOf_sdata_transmitEvents (n : Nat) (out : Nat → Bool) :
    writesOf .sdata (transmitEvents n out) = (List.range (8 * n)).map fun j => levelOf (out (8 * n - 1 - j)) := by
  simp only [writesOf_transmitEvents, writesOf_sdata_bitEvents, List.map_eq_flatMap]
  exact List.append_nil _

/-- Settles O40, line by line. -/
theorem transmissionEventCounts : Obligations.TransmissionEventCounts := by
  intro n out
  have hsclk := writesOf_sclk_transmitEvents n out
  have hsdata := writesOf_sdata_transmitEvents n out
  refine ⟨transmitEvents_length n out, writesOf_latch_transmitEvents n out, hsclk, hsdata, ?clock, ?data⟩
  case clock =>
    rw [hsclk, List.length_flatMap, List.map_const', List.sum_replicate_nat, List.length_range]
    simp only [List.length_cons, List.length_nil]
    omega
  case data => rw [hsdata, List.length_map, List.length_range]

/-- Settles O39: the bit sent is read from the register and bit of its logical output. -/
theorem bitsAreSentInReverseIndexOrder : Obligations.BitsAreSentInReverseIndexOrder := by
  intro n s
  have hbit : ∀ j < 8 * n, (s.buf.read (n - 1 - j / 8)).getLsbD (7 - j % 8) = s.out (8 * n - 1 - j) := by
    intro j hj
    obtain ⟨hreg, hbit⟩ := sent_position hj
    exact congrArg₂ (fun k b => (s.buf.read k).getLsbD b) hreg hbit
  refine ⟨?_, hbit⟩
  rw [writesOf_sdata_transmitEvents]
  exact List.map_congr_left fun j hj => congrArg levelOf (hbit j (List.mem_range.mp hj)).symm

/-! ## The micro-steps and the whole of a TRANSMIT -/

/-- Settles O44: each row's action, run on the block with the host's list of the next state. -/
theorem microStepsFollowTheTable : Obligations.MicroStepsFollowTheTable := by
  intro s k hr hm hle hupc u
  have hk := transmitAt_of_upc hupc
  refine ⟨?latchLow, ?clockLow, ?data, ?clockHigh, ?latchHigh, ?finish⟩
  case latchLow => rintro rfl; exact ⟨_, step_of_write_row hr hm hk (transmitAct_first _)⟩
  case clockLow => rintro j hj rfl; exact ⟨_, step_of_write_row hr hm hk (transmitAct_clockLow hj)⟩
  case data => rintro j hj rfl; exact ⟨_, step_of_bit_row hr hm hk hj hle⟩
  case clockHigh => rintro j hj rfl; exact ⟨_, step_of_write_row hr hm hk (transmitAct_clockHigh hj)⟩
  case latchHigh => rintro rfl; exact ⟨_, step_of_write_row hr hm hk (transmitAct_latch _)⟩
  case finish => rintro rfl; exact ⟨_, step_of_row hr hm hk (transmitAct_finish _)⟩

/-- Settles O48: the whole effect is `State.transmitted`; the invariant gives the fields an IDLE block already has. -/
theorem transmitSendsTheWholeBuffer : Obligations.TransmitSendsTheWholeBuffer := by
  intro s hi hm hh
  obtain ⟨h1, hle, hop, hupc⟩ := (modeOk_idle hm).mp hi.modes
  obtain ⟨⟨hsdata, hsclk, hlatch⟩, -⟩ := (linesOk_idle hm).mp hi.lines
  obtain ⟨hlen, -⟩ := hi.chain
  refine ⟨_, runSteps_transmit hm h1 hle hlen hh, rfl, ?sdata, ?sclk, ?latch, ?rest⟩
  case sdata => rw [← hsdata]; rfl
  case sclk => rw [← hsclk]; rfl
  case latch => rw [← hlatch]; rfl
  case rest => rw [hm, hop, hupc]; rfl

end Sys2Proof.Safety

/-! # QUERY (43_query.md): what the host learns after each command -/

namespace Sys2Proof.Machine

/-! ## The answer and the faults in a response -/

/-- A response with no fault carries its `Q` as the answer (R71, R150). -/
@[simp] theorem responseAnswer_responseWord_zero (q : Bool) : responseAnswer (responseWord q 0) = some q := by
  simp [responseAnswer]

/-- Once the command has ended, the host reads the response it was given (R192). -/
theorem hostAnswer_respond {s : State} (hm : s.mode = .idle) (r : Byte) :
    hostAnswer (s.respond r) = responseAnswer r := by
  simp [hostAnswer, hostResponse, commandEnded, hm]

/-- A QUERY on a constructed block tells the host `DIRTY` (R150). -/
theorem hostAnswer_of_execQuery {s t : State} (hm : s.mode = .idle) (h : execQuery s = .next t) :
    hostAnswer t = some s.dirty := by
  rcases execQuery_next h with ⟨hu, -⟩ | ⟨-, rfl⟩
  · simp [hm] at hu
  · rw [hostAnswer_respond hm, responseAnswer_responseWord_zero]

/-- No QUERY answers while BUSY (R211). -/
theorem execQuery_ne_next_of_busy {s t : State} (hm : s.mode = .busy) : execQuery s ≠ .next t := by
  simp [execQuery, whenConstructed_busy _ hm]

/-- The response of a fault is not the response of a command that succeeded (R160, R161). -/
theorem raiseFault_resp_ne_done (c : FaultCode) (s : State) : (raiseFault c s).resp ≠ responseDone := by
  cases c <;> simp [FaultCode.code, responseDone, responseWord]

/-! ## The state in which the QUERY finds the block -/

/-- A buffer command that succeeded leaves `DIRTY` set, and the mode (R24). -/
theorem IsBufferCommand.dirty_of_done {i : Instr} {s t : State} (hi : IsBufferCommand i) (h : exec i s = .next t)
    (hdone : t.resp = responseDone) : t.mode = s.mode ∧ t.dirty = true := by
  rcases hi.exec_next h with ⟨c, rfl⟩ | ⟨m, rfl⟩
  · exact absurd hdone (raiseFault_resp_ne_done c s)
  · exact ⟨rfl, rfl⟩

/-- On a constructed block a response with a fault's code is a fault's, unless a TRANSMIT has started, whose `RESP`
still holds the previous response (R28). -/
theorem exec_next_of_responseCode_ne_zero {i : Instr} {s t : State} (hm : s.mode = .idle) (h : exec i s = .next t)
    (hcode : responseCode t.resp ≠ 0) : (∃ c, t = raiseFault c s) ∨ t.mode = .busy := by
  rcases exec_next h with hf | ⟨-, m, rfl⟩ | ⟨-, rfl⟩ | ⟨-, rfl⟩ | ⟨hu, -⟩
  · exact .inl hf
  · simp [responseDone] at hcode
  · simp at hcode
  · exact .inr rfl
  · simp [hm] at hu

/-- The one micro-step that returns the block to IDLE is the last (R131, R137). -/
theorem eq_finishSequence_of_microStep_idle {s t : State} (h : microStep s = .next t) (hs : s.mode = .busy)
    (ht : t.mode = .idle) : t = finishSequence s := by
  obtain ⟨a, -, h⟩ := microStep_next h
  rcases runAct_next h with ⟨l, -, rfl⟩ | ⟨-, -, rfl⟩ | ⟨l, lvl, -, rfl⟩ | ⟨j, -, -, rfl⟩ | ⟨-, e⟩
  case inr.inr.inr.inr => exact e
  all_goals simp [hs] at ht

end Sys2Proof.Machine

namespace Sys2Proof.Safety

open Sys2Proof.Machine

/-- Settles O30: a QUERY tells `DIRTY`, which a buffer command sets, a fault leaves and the last micro-step clears. -/
theorem queryAnswersAfterEachCommand : Obligations.QueryAnswersAfterEachCommand := by
  refine ⟨fun i s t u hm h hq => ⟨fun hi hdone => ?buffer, fun hcode => ?fault⟩,
    fun s t u hr hm h ht hq => ?sequence⟩
  case buffer =>
    obtain ⟨hmode, hdirty⟩ := IsBufferCommand.dirty_of_done hi h hdone
    rw [hostAnswer_of_execQuery (hmode.trans hm) hq, hdirty]
  case fault =>
    rcases exec_next_of_responseCode_ne_zero hm h hcode with ⟨c, rfl⟩ | hbusy
    · exact hostAnswer_of_execQuery (s := raiseFault c s) hm hq
    · exact absurd hq (execQuery_ne_next_of_busy hbusy)
  case sequence =>
    rw [step_of_busy hr hm] at h
    obtain rfl := eq_finishSequence_of_microStep_idle h hm ht
    exact hostAnswer_of_execQuery rfl hq

end Sys2Proof.Safety

/-! # Faults (60_exceptions.md R160-R167) and the external chain (R180-R188) -/

namespace Sys2Proof.Machine

open Sys2Proof.Safety

/-! ## Which fault a command reports (R167) -/

/-- The counts that are not legal are those R162 names. -/
theorem legalCount_iff {c : Config} {n : Nat} : legalCount c n = true ↔ ¬ (n = 0 ∨ c.maxRegs < n) := by
  simp only [legalCount, Bool.and_eq_true, decide_eq_true_eq]
  omega

theorem execConstruct_of_illegal {n : Nat} {s : State} (hm : s.mode = .unconfigured)
    (hn : n = 0 ∨ s.cfg.maxRegs < n) : execConstruct n s = .next (recordFault 0x1 s) := by
  have hl : ¬ legalCount s.cfg n = true := fun hl => legalCount_iff.mp hl hn
  rw [execConstruct, whenUnconfigured_unconfigured _ hm, if_neg hl, faulted, raiseFault_eq_recordFault, FaultCode.code]

theorem execConstruct_of_idle {n : Nat} {s : State} (hm : s.mode = .idle) :
    execConstruct n s = .next (recordFault 0x5 s) := by
  rw [execConstruct, whenUnconfigured_idle _ hm, raiseFault_eq_recordFault, FaultCode.code]

/-- SETALL answers that the block is not constructed, or that it is done (R112, R163). -/
theorem execSetall_resp {v : Bool} {s t : State} (h : execSetall v s = .next t) :
    t.resp = responseWord false 0x4 ∨ t.resp = responseDone := by
  rcases execSetall_next h with ⟨-, rfl⟩ | ⟨-, -, rfl⟩
  · exact .inl rfl
  · exact .inr rfl

/-- An answer is what R167 asks of a command run in `s` whose first applicable fault is `fault`: that fault's record
and nothing else, or, where there is none, a next state with the record untouched. -/
def Reports (s : State) (fault : Option (BitVec 4)) (a : Answer) : Prop :=
  match fault with
  | some code => a = .next (recordFault code s)
  | none => ∃ t, a = .next t ∧ t.lastFault = s.lastFault ∧ t.faultSeen = s.faultSeen

/-- A fault that is checked for before the others. -/
theorem Reports.of_ite {s : State} {p : Prop} [Decidable p] {f g : Option (BitVec 4)} {a : Answer}
    (hf : p → Reports s f a) (hg : ¬ p → Reports s g a) : Reports s (if p then f else g) a := by
  split
  · next h => exact hf h
  · next h => exact hg h

/-- A command that succeeds and keeps the record. -/
theorem Reports.of_next {s t : State} {a : Answer} (h : a = .next t) (hf : t.lastFault = s.lastFault)
    (hs : t.faultSeen = s.faultSeen) : Reports s none a :=
  ⟨t, h, hf, hs⟩

section
variable {s : State} (hready : s.mode ≠ .busy)
include hready

theorem idle_of_ready (h : s.mode ≠ .unconfigured) : s.mode = .idle := by
  cases hm : s.mode with
  | unconfigured => exact absurd hm h
  | idle => rfl
  | busy => exact absurd hm hready

/-- The mode check of the commands that need a construction comes first (R165, R167). -/
theorem Reports.of_whenConstructed {f : Option (BitVec 4)} {a : Answer} (h : s.mode = .idle → Reports s f a) :
    Reports s (if s.mode = .unconfigured then some 0x4 else f) (whenConstructed s a) :=
  Reports.of_ite (fun hu => whenConstructed_recordFault a hu) fun hu => by
    have hm := idle_of_ready hready hu
    rw [whenConstructed_idle _ hm]
    exact h hm

/-- CONSTRUCT checks the mode, then the count (R162, R166, R167). -/
theorem execConstruct_reports (n : Nat) :
    Reports s (if s.mode ≠ .unconfigured then some 0x5 else if n = 0 ∨ s.cfg.maxRegs < n then some 0x1 else none)
      (execConstruct n s) := by
  refine Reports.of_ite (fun hm => execConstruct_of_idle (idle_of_ready hready hm)) fun hm => ?_
  have hu : s.mode = .unconfigured := not_not.mp hm
  refine Reports.of_ite (fun hn => execConstruct_of_illegal hu hn) fun hn => ?_
  exact Reports.of_next (execConstruct_of_legal hu (legalCount_iff.mpr hn)) rfl rfl

variable (hfits : s.regCount ≤ s.cfg.maxRegs)
include hfits

/-- SETPIN checks the mode, then the index (R163, R165, R167). -/
theorem execSetpin_reports (index : Nat) (value : Bool) :
    Reports s (if s.mode = .unconfigured then some 0x4 else if 8 * s.regCount ≤ index then some 0x2 else none)
      (execSetpin index value s) := by
  refine Reports.of_ite (fun hu => whenConstructed_recordFault _ hu) fun hu => ?_
  have hm := idle_of_ready hready hu
  refine Reports.of_ite (fun hle => execSetpin_of_le hm hle) fun hle => ?_
  exact Reports.of_next (execSetpin_of_lt hm (Nat.lt_of_not_le hle) hfits) rfl rfl

/-- SETALL checks the mode only (R165, R167). -/
theorem execSetall_reports (value : Bool) :
    Reports s (if s.mode = .unconfigured then some 0x4 else none) (execSetall value s) :=
  Reports.of_whenConstructed hready fun _ => Reports.of_next (fillBuffer_of_le _ _ hfits) rfl rfl

/-- An accepted word reports its first applicable fault (R167). -/
theorem acceptWord_reports (w : Word) : Reports s (firstFault s w) (acceptWord w s) := by
  unfold firstFault acceptWord
  cases decode w with
  | illegal why => exact congrArg Host.Outcome.next (raiseFault_eq_recordFault .illegalCommand s)
  | command i =>
    cases i with
    | construct n => exact execConstruct_reports hready n
    | setpin index value => exact execSetpin_reports hready hfits index value
    | setall value => exact execSetall_reports hready hfits value
    | clear => exact execSetall_reports hready hfits false
    | transmit => exact Reports.of_whenConstructed hready fun _ => Reports.of_next rfl rfl rfl
    | query => exact Reports.of_whenConstructed hready fun _ => Reports.of_next rfl rfl rfl

end

/-! ## The chain's reaction to a line event (R181-R183) -/

/-- No write of LOW is a rising transition (R143). -/
@[simp] theorem isRising_low_after (before : Level) : isRising before .low = false := by
  cases before <;> rfl

/-- A write of HIGH to a LOW line is one (R143). -/
@[simp] theorem isRising_low_high : isRising .low .high = true := rfl

/-- A write of LOW leaves the chain's bits (R183). -/
theorem pinWrite_low_chain (l : Line) (s : State) :
    (pinWrite l .low s).stages = s.stages ∧ (pinWrite l .low s).outs = s.outs := by
  cases l with
  | sdata => exact ⟨rfl, rfl⟩
  | sclk => simp [pinWrite_sclk_stages]
  | latch => simp [pinWrite_latch_outs]

theorem pinWrite_sclk_high_stages {s : State} (h : s.lines.sclk.level.physical = .low) :
    (pinWrite .sclk .high s).stages = shiftStages s.sampledBit s.stages := by
  rw [pinWrite_sclk_stages, h, isRising_low_high, if_pos rfl]

theorem pinWrite_latch_high_outs {s : State} (h : s.lines.latch.level.physical = .low) :
    (pinWrite .latch .high s).outs = s.stages := by
  rw [pinWrite_latch_outs, h, isRising_low_high, if_pos rfl]

/-! ## Which micro-steps write the outputs (R182, R184, R187) -/

/-- Only a rise of LATCH writes the outputs (R182, R183). -/
theorem pinWrite_outs {l : Line} {lvl : Level} (h : ¬ (l = .latch ∧ lvl = .high)) (s : State) :
    (pinWrite l lvl s).outs = s.outs := by
  cases l with
  | sdata => rfl
  | sclk => exact pinWrite_sclk_outs lvl s
  | latch =>
    cases lvl with
    | low => exact (pinWrite_low_chain .latch s).2
    | high => exact absurd ⟨rfl, rfl⟩ h

/-- Only the configuration of LATCH draws the outputs (R184). -/
theorem pinConfigure_outs {l : Line} (h : l ≠ .latch) (s : State) : (pinConfigure l s).outs = s.outs := by
  cases l with
  | sdata | sclk => rfl
  | latch => exact absurd rfl h

/-- Every other action leaves the outputs. -/
theorem runAct_outs {a : MicroAct} {s t : State} (h : runAct a s = .next t) (hc : a ≠ .configure .latch)
    (hw : a ≠ .write .latch .high) : t.outs = s.outs := by
  rcases runAct_next h with ⟨l, rfl, rfl⟩ | ⟨-, -, rfl⟩ | ⟨l, lvl, rfl, rfl⟩ | ⟨j, -, -, rfl⟩ | ⟨-, rfl⟩
  · exact pinConfigure_outs (fun e => hc (by rw [e])) s
  · rfl
  · exact pinWrite_outs (fun ⟨hl, hlvl⟩ => hw (by rw [hl, hlvl])) s
  · rfl
  · rfl

/-- The table of R131 ends with row `24N + 2`. -/
theorem transmitAct_past {n k : Nat} (h : 24 * n + 2 < k) : transmitAct n k = none := by
  rw [transmitAct, if_neg (by omega), if_neg (by omega), if_neg (by omega), if_neg (by omega)]

/-- A transmission configures no line, and raises LATCH at step `24N + 1` only (R131). -/
theorem transmitAct_ne_latch {n k : Nat} {a : MicroAct} (h : transmitAct n k = some a) (hk : k ≠ 24 * n + 1) :
    a ≠ .configure .latch ∧ a ≠ .write .latch .high := by
  rcases transmitStep_cases n k with rfl | ⟨j, hj, rfl⟩ | ⟨j, hj, rfl⟩ | ⟨j, hj, rfl⟩ | e | rfl | hlt
  · rw [transmitAct_first] at h; cases h; simp
  · rw [transmitAct_clockLow hj] at h; cases h; simp
  · rw [transmitAct_sendBit hj] at h; cases h; simp
  · rw [transmitAct_clockHigh hj] at h; cases h; simp
  · exact absurd e hk
  · rw [transmitAct_finish] at h; cases h; simp
  · rw [transmitAct_past hlt] at h; cases h

/-- A step of a sequence that runs `a`, where `a` neither configures LATCH nor raises it. -/
theorem step_outs_of_act {s t : State} {a : MicroAct} (hr : NoReset s) (hm : s.mode = .busy)
    (ha : currentAct s = some a) (h : step s = .next t) (hc : a ≠ .configure .latch) (hw : a ≠ .write .latch .high) :
    t.outs = s.outs :=
  runAct_outs (s := s.setHost (movesAfterBusy s.host)) ((step_of_act hr hm ha).symm.trans h) hc hw

/-- A step of a transmission, under TRANSMIT or CONSTRUCT, other than step `24N + 1` leaves the outputs (R187). -/
theorem step_outs_of_transmitAt {s t : State} {k : Nat} (hr : NoReset s) (hm : s.mode = .busy)
    (hrow : transmitAt s = some k) (hk : k ≠ 24 * s.regCount + 1) (h : step s = .next t) : t.outs = s.outs := by
  obtain ⟨a, ha, -⟩ := microStep_next ((step_of_busy hr hm).symm.trans h)
  obtain ⟨hc, hw⟩ := transmitAct_ne_latch ((currentAct_of_transmitAt hrow).symm.trans ha) hk
  exact step_outs_of_act hr hm ha h hc hw

/-! ## The readings of the latch (R188) -/

section
variable (r : LatchReading)

theorem Probe.replay_concat (p : Probe) (es : List LineEvent) (e : LineEvent) :
    p.replay r (es ++ [e]) = (p.replay r es).event r e := by
  simp [Probe.replay]

/-- While LATCH is LOW, and is not raised, no reading writes the outputs. -/
theorem Probe.event_of_latch_low {p : Probe} {e : LineEvent} (hp : p.latch = .low) (he : e ≠ .write .latch .high) :
    (p.event r e).latch = .low ∧ (p.event r e).outs = p.outs := by
  cases e with
  | config l => exact ⟨hp, rfl⟩
  | write l lvl =>
    cases l with
    | sdata => exact ⟨hp, rfl⟩
    | sclk => simp [Probe.event, followOutputs, hp]
    | latch =>
      cases lvl with
      | low => cases r <;> simp [Probe.event, latchOutputs, hp]
      | high => exact absurd rfl he

theorem Probe.replay_of_latch_low {p : Probe} {es : List LineEvent} (hp : p.latch = .low)
    (hes : ∀ e ∈ es, e ≠ .write .latch .high) :
    (p.replay r es).latch = .low ∧ (p.replay r es).outs = p.outs := by
  induction es generalizing p with
  | nil => exact ⟨hp, rfl⟩
  | cons e es ih =>
    obtain ⟨hlatch, houts⟩ := Probe.event_of_latch_low r hp (hes e List.mem_cons_self)
    obtain ⟨hlatch', houts'⟩ := ih hlatch fun e' he' => hes e' (List.mem_cons_of_mem e he')
    exact ⟨hlatch', houts'.trans houts⟩

/-- Every reading copies the stages at a rise of LATCH. -/
theorem Probe.event_latch_rise {p : Probe} (hp : p.latch = .low) :
    (p.event r (.write .latch .high)).outs = p.stages := by
  cases r <;> simp [Probe.event, latchOutputs, hp, isRising]

/-- No reading changes outputs that are equal to the stages when LATCH is driven LOW. -/
theorem Probe.event_latch_low_outs {p : Probe} (h : p.outs = p.stages) :
    (p.event r (.write .latch .low)).outs = p.outs := by
  cases r <;> simp [Probe.event, latchOutputs, h]

end

/-- Two probes that differ at most in their outputs. -/
structure Probe.SameInputs (p q : Probe) : Prop where
  sdata : p.sdata = q.sdata
  sclk : p.sclk = q.sclk
  latch : p.latch = q.latch
  stages : p.stages = q.stages

/-- The lines and the stages do not depend on the reading. -/
theorem Probe.SameInputs.event {p q : Probe} (h : p.SameInputs q) (r r' : LatchReading) (e : LineEvent) :
    (p.event r e).SameInputs (q.event r' e) := by
  obtain ⟨hd, hc, hl, hs⟩ := h
  cases e with
  | config l => exact ⟨hd, hc, hl, hs⟩
  | write l lvl =>
    cases l with
    | sdata => exact ⟨rfl, hc, hl, hs⟩
    | sclk => exact ⟨hd, rfl, hl, by simp only [Probe.event, hd, hc, hs]⟩
    | latch => exact ⟨hd, hc, rfl, hs⟩

theorem Probe.SameInputs.replay {p q : Probe} (h : p.SameInputs q) (r r' : LatchReading) (es : List LineEvent) :
    (p.replay r es).SameInputs (q.replay r' es) := by
  induction es generalizing p q with
  | nil => exact h
  | cons e es ih => exact ih (h.event r r' e)

/-- A transmission drives LATCH LOW, writes the other two lines, and raises LATCH (R131). -/
theorem transmitEvents_latch (n : Nat) (out : Nat → Bool) :
    ∃ bits, transmitEvents n out = (.write .latch .low :: bits) ++ [.write .latch .high] ∧
      ∀ e ∈ bits, e ≠ .write .latch .high := by
  refine ⟨_, rfl, fun e he => ?_⟩
  obtain ⟨j, -, hbit⟩ := List.mem_flatMap.mp he
  rintro rfl
  simp [bitEvents] at hbit

/-- After LATCH was driven LOW and before it is raised, every reading shows what it showed at the start. -/
theorem Probe.replay_latch_low {p : Probe} {es : List LineEvent} (r : LatchReading)
    (hes : ∀ e ∈ es, e ≠ .write .latch .high) :
    (p.replay r (.write .latch .low :: es)).latch = .low ∧
      (p.replay r (.write .latch .low :: es)).outs = (p.event r (.write .latch .low)).outs :=
  Probe.replay_of_latch_low r (p := p.event r (.write .latch .low)) rfl hes

/-- After a transmission every reading shows the stages, which are the same in all (R188). -/
theorem Probe.replay_transmitEvents_outs (r : LatchReading) (n : Nat) (out : Nat → Bool) (p : Probe) :
    (p.replay r (transmitEvents n out)).outs = (p.replay .rising (transmitEvents n out)).outs := by
  obtain ⟨bits, he, hbits⟩ := transmitEvents_latch n out
  have hstages : ∀ r', (p.replay r' (transmitEvents n out)).outs = (p.replay r' (.write .latch .low :: bits)).stages :=
    fun r' => by
      rw [he, Probe.replay_concat]
      exact Probe.event_latch_rise r' (Probe.replay_latch_low r' hbits).1
  have hsame : p.SameInputs p := ⟨rfl, rfl, rfl, rfl⟩
  rw [hstages r, hstages .rising, (hsame.replay r .rising _).stages]

/-- In a transmission that starts with the outputs equal to the stages every reading holds them up to the rise of
LATCH (R188). -/
theorem Probe.replay_take_outs {p : Probe} {es : List LineEvent} (r : LatchReading) (hp : p.outs = p.stages)
    (hes : ∀ e ∈ es, e ≠ .write .latch .high) (k : Nat) :
    (p.replay r ((.write .latch .low :: es).take k)).outs = p.outs := by
  cases k with
  | zero => rfl
  | succ k =>
    obtain ⟨-, houts⟩ := Probe.replay_latch_low (p := p) r fun e he => hes e (List.mem_of_mem_take (i := k) he)
    exact houts.trans (Probe.event_latch_low_outs r hp)

end Sys2Proof.Machine

namespace Sys2Proof.Safety

open Sys2Proof.Machine

/-- A block that is not BUSY has an `N` that fits the buffer: it is 0 before construction (R23, R34). -/
theorem Inv.regCount_le {s : State} (hi : Inv s) : s.regCount ≤ s.cfg.maxRegs := by
  by_cases hu : s.mode = .unconfigured
  · obtain ⟨h0, -⟩ := (modeOk_unconfigured hu).mp hi.modes
    omega
  · exact (hi.regCount_bounds hu).2

/-- Settles O21: the word is accepted, and each command checks in the order of R167. -/
theorem firstApplicableFaultIsReported : Obligations.FirstApplicableFaultIsReported := by
  intro s w rest hi hm hh
  rw [step_of_present hm hh]
  exact acceptWord_reports (s := s.setHost rest) hm hi.regCount_le w

/-- Settles O37: up to the rise of LATCH every reading holds the outputs it started with, at the rise every reading
copies the stages. -/
theorem latchReadingsGiveTheSameOutputs : Obligations.LatchReadingsGiveTheSameOutputs := by
  intro r n out p
  refine ⟨fun hp _ k => ?_, Probe.replay_transmitEvents_outs r n out p⟩
  obtain ⟨bits, he, hbits⟩ := transmitEvents_latch n out
  by_cases hk : k ≤ (LineEvent.write .latch .low :: bits).length
  · rw [he, List.take_append_of_le_length hk, Probe.replay_take_outs r hp hbits,
      Probe.replay_take_outs .rising hp hbits]
  · have hall : (transmitEvents n out).take k = transmitEvents n out :=
      List.take_of_length_le (by rw [he, List.length_append, List.length_singleton]; omega)
    rw [hall, Probe.replay_transmitEvents_outs]

/-- Settles O49: the transmission runs to `State.transmitted`, whose stages and outputs are the logical outputs. -/
theorem outputsEqualTheBufferAfterTransmission : Obligations.OutputsEqualTheBufferAfterTransmission := by
  intro s hi hm hk hh
  obtain ⟨h1, hle⟩ := hi.regCount_bounds (by simp [hm])
  obtain ⟨hlen, -⟩ := hi.chain
  have htransmitting : Transmitting s 0 := { undisturbed_of_nil hm hh with row := hk, fits := hle }
  have hout : ∀ i < 8 * s.regCount, ((List.range s.outputCount).map s.out)[i]? = some (s.out i) :=
    fun i hlt => by simp [State.outputCount, hlt]
  have hcount : ((List.range s.outputCount).map s.out).length = 8 * s.regCount := by simp [State.outputCount]
  exact ⟨_, htransmitting.runSteps_transmission h1 hlen, rfl, hcount, hcount,
    fun i hlt => ⟨hout i hlt, hout i hlt⟩⟩

/-- Settles O59: of the micro-steps only the rise of LATCH and its configuration write the outputs. -/
theorem outputsHoldDuringTheShift : Obligations.OutputsHoldDuringTheShift := by
  intro s t _ hr hm h
  refine ⟨fun hop hupc => ?transmit, fun hop hupc => ?configure, fun hop hle hupc => ?construct⟩
  case transmit => exact step_outs_of_transmitAt hr hm (transmitAt_of_upc (.inl ⟨hop, rfl⟩)) hupc h
  case configure =>
    rw [step_of_act hr hm (currentAct_of_construct hop hupc rfl)] at h
    cases h
    exact ⟨_, pinConfigure_latch_outs _⟩
  case construct =>
    rcases Nat.eq_or_lt_of_le hle with h3 | h4
    · exact step_outs_of_act hr hm (currentAct_of_construct hop h3.symm rfl) h (by simp) (by simp)
    · have hrow : transmitAt s = some (s.upc - 4) := transmitAt_of_upc (.inr ⟨hop, by omega⟩)
      exact step_outs_of_transmitAt hr hm hrow (by omega) h

/-- Settles O17: the mode check comes first in each of the five. -/
theorem unconstructedBlockRaisesNotConstructed : Obligations.UnconstructedBlockRaisesNotConstructed := by
  intro i s hi hm
  cases i with
  | construct n => cases hi
  | setpin | setall | clear | transmit | query => exact whenConstructed_recordFault _ hm

/-- Settles O19: the refused count leaves mode, parameters and `N`, so a legal one is accepted after it. -/
theorem illegalCountRaisesConfigurationError : Obligations.IllegalCountRaisesConfigurationError := by
  intro n s hm hn
  refine ⟨execConstruct_of_illegal hm hn, hm, rfl, fun m h1 hle => ?_⟩
  have hl : legalCount s.cfg m = true := legalCount_iff.mpr (by omega)
  exact ⟨_, execConstruct_of_legal (s := recordFault 0x1 s) hm hl, rfl, rfl⟩

/-- Settles O20: SETPIN checks the index; SETALL and CLEAR have only two responses. -/
theorem indexPastTheChainRaisesIndexOutOfRange : Obligations.IndexPastTheChainRaisesIndexOutOfRange := by
  refine ⟨fun index value s hm hle => ⟨execSetpin_of_le hm hle, hm⟩, fun i s t hi h => ?_⟩
  have hresp : t.resp = responseWord false 0x4 ∨ t.resp = responseDone := by
    rcases hi with ⟨value, rfl⟩ | rfl
    · exact execSetall_resp h
    · exact execSetall_resp ((execClear_eq_execSetall_false s).symm.trans h)
  rcases hresp with e | e
  · rw [e]; decide
  · rw [e]; decide

/-- Settles O33: the rise shifts the stages by `shiftStages`, which brings the sampled bit in at stage 0. -/
theorem clockRiseShiftsTheChain : Obligations.ClockRiseShiftsTheChain := by
  intro s hlow hlen
  rw [pinWrite_sclk_high_stages hlow, shiftStages_length]
  refine ⟨pinWrite_sclk_outs .high s, hlen, fun i h1 hi => ?moved, fun lvl hlvl h1 => ?sampled⟩
  case moved => rw [shiftStages_getElem? _ _ (hlen.symm ▸ hi), if_neg (by omega)]
  case sampled => rw [shiftStages_getElem? _ _ (by omega), if_pos rfl, State.sampledBit, hlvl]

/-- Settles O34: the rise of LATCH writes the outputs only. -/
theorem latchRiseCopiesTheStages : Obligations.LatchRiseCopiesTheStages :=
  fun s hlow => ⟨pinWrite_latch_high_outs hlow, pinWrite_latch_stages .high s⟩

/-- Settles O35, event by event: none of them is a rise of SCLK or LATCH, or their configuration. -/
theorem otherLineEventsLeaveTheChain : Obligations.OtherLineEventsLeaveTheChain :=
  fun s => ⟨fun l => pinWrite_low_chain l s, fun l _ h => pinWrite_chain_of_same_level l h,
    fun lvl => ⟨pinWrite_sdata_stages lvl s, pinWrite_sdata_outs lvl s⟩,
    pinConfigure_sdata_stages s, pinConfigure_sdata_outs s⟩

end Sys2Proof.Safety

/-! # Reset (70_reset_and_hazards.md R200, R205) -/

namespace Sys2Proof.Safety

open Sys2Proof.Machine

/-- Settles O9: a reset step runs `resetBlock`, which differs from the power-on state of R38 only in the host's
moves and the count of draws, neither of them named here. -/
theorem resetAbandonsAnySequence : Obligations.ResetAbandonsAnySequence := by
  intro s rest h
  obtain ⟨-, hpowerOn⟩ := resetLeavesTheSpecsValues
  exact ⟨resetBlock (s.setHost rest), step_of_reset h, hpowerOn s.cfg⟩

end Sys2Proof.Safety

/-! # The command word and its commands, in both directions (30_encoding.md R70-R80) -/

namespace Sys2Proof.Laws.FieldBits

/-- Every command is the pack of its OP, its V and its ARG (R70, R73). -/
theorem encode_eq_packWord (i : Instr) :
    encode i = packWord (BitVec.ofNat 4 (opNumber i)) (valueBit i) (BitVec.ofNat 16 (argNumber i)) := by
  cases i <;> rfl

/-- The commands whose ARG fits its field (R75). -/
theorem wellFormed_iff (i : Instr) : i.WellFormed ↔ argNumber i < 2 ^ 16 := by
  cases i <;> simp [Instr.WellFormed, Instr.wellFormed, argNumber]

/-- The decoder reads a command back from its fields (R73, R74). -/
theorem decodeOp_of_fields {i : Instr} (h : argNumber i < 2 ^ 16) :
    decodeOp (BitVec.ofNat 4 (opNumber i)) (valueBit i) (BitVec.ofNat 16 (argNumber i)) = .command i := by
  cases i with
  | construct n | setpin n v => simpa [decodeOp, opNumber, valueBit, argNumber] using h
  | setall | clear | transmit | query => rfl

theorem decode_encode {i : Instr} (h : i.WellFormed) : decode (encode i) = .command i := by
  rw [encode_eq_packWord, decode_packWord, decodeOp_of_fields ((wellFormed_iff i).mp h)]

/-- A word with the fields of a command is the command's word: no bit is outside the fields (R70). -/
theorem encode_eq_of_fields {w : Word} {i : Instr} (hop : w.op.toNat = opNumber i) (harg : w.arg.toNat = argNumber i)
    (hv : w.v = valueBit i) (h1 : w.rz1 = 0) (h2 : w.rz2 = 0) : encode i = w := by
  rw [encode_eq_packWord, ← hop, ← harg, ← hv, BitVec.ofNat_toNat, BitVec.ofNat_toNat, BitVec.setWidth_eq,
    BitVec.setWidth_eq, packWord_fields h1 h2]

/-- A word spells a command exactly by its fields (R73, R74). -/
theorem decode_eq_command_iff {w : Word} {i : Instr} :
    decode w = .command i ↔
      w.op.toNat = opNumber i ∧ w.arg.toNat = argNumber i ∧ w.v = valueBit i ∧ w.rz1 = 0 ∧ w.rz2 = 0 := by
  refine ⟨fields_of_decode_command, fun ⟨hop, harg, hv, h1, h2⟩ => ?_⟩
  have hwf : i.WellFormed := (wellFormed_iff i).mpr (harg ▸ w.arg.isLt)
  rw [← encode_eq_of_fields hop harg hv h1 h2, decode_encode hwf]

/-! ## Mask and match (R73) -/

/-- Two words with the same fields are one (R70). -/
theorem word_eq_iff {w w' : Word} :
    w = w' ↔ w.op = w'.op ∧ w.rz1 = w'.rz1 ∧ w.v = w'.v ∧ w.rz2 = w'.rz2 ∧ w.arg = w'.arg := by
  refine ⟨fun h => h ▸ ⟨rfl, rfl, rfl, rfl, rfl⟩, fun ⟨hop, h1, hv, h2, harg⟩ => ?_⟩
  refine BitVec.eq_of_getLsbD_eq fun i hi => ?_
  have hfield : ∀ {start len : Nat}, start ≤ i → i < start + len →
      w.extractLsb' start len = w'.extractLsb' start len → w.getLsbD i = w'.getLsbD i := by
    intro start len hle hlt h
    have hbit := congrArg (BitVec.getLsbD · (i - start)) h
    simpa [BitVec.getLsbD_extractLsb', show i - start < len by omega, Nat.add_sub_cancel' hle] using hbit
  have hi' : i < 16 ∨ 16 ≤ i ∧ i < 24 ∨ i = 24 ∨ 25 ≤ i ∧ i < 28 ∨ 28 ≤ i := by omega
  rcases hi' with h | ⟨h, h'⟩ | rfl | ⟨h, h'⟩ | h
  · exact hfield (Nat.zero_le i) (by omega) harg
  · exact hfield h h' h2
  · exact hv
  · exact hfield h h' h1
  · exact hfield h hi hop

theorem op_and (w m : Word) : (w &&& m).op = w.op &&& m.op := BitVec.extractLsb'_and ..
theorem rz1_and (w m : Word) : (w &&& m).rz1 = w.rz1 &&& m.rz1 := BitVec.extractLsb'_and ..
theorem v_and (w m : Word) : (w &&& m).v = (w.v && m.v) := BitVec.getLsbD_and ..
theorem rz2_and (w m : Word) : (w &&& m).rz2 = w.rz2 &&& m.rz2 := BitVec.extractLsb'_and ..
theorem arg_and (w m : Word) : (w &&& m).arg = w.arg &&& m.arg := BitVec.extractLsb'_and ..

/-- A row of R73 for the commands with OP `op`: the mask holds OP, RZ1 and RZ2, and V and ARG where they must be 0. -/
structure RowShape (r : OpcodeRow) (op : Nat) : Prop where
  mnemonic : ∀ i : Instr, i.mnemonic = r.mnemonic ↔ opNumber i = op
  matchBits : r.matchBits = packWord (BitVec.ofNat 4 op) false 0
  mask : r.mask.op = BitVec.allOnes 4 ∧ r.mask.rz1 = BitVec.allOnes 3 ∧ r.mask.rz2 = BitVec.allOnes 8 ∧
    r.mask.v = decide (op ∈ [0, 3, 4, 5]) ∧ r.mask.arg = if op ∈ [2, 3, 4, 5] then BitVec.allOnes 16 else 0

/-- What a row asks of a word's fields. -/
theorem RowShape.matches_iff {r : OpcodeRow} {op : Nat} (h : RowShape r op) (w : Word) :
    w &&& r.mask = r.matchBits ↔
      w.op = BitVec.ofNat 4 op ∧ w.rz1 = 0 ∧ (op ∈ [0, 3, 4, 5] → w.v = false) ∧ w.rz2 = 0 ∧
        (op ∈ [2, 3, 4, 5] → w.arg = 0) := by
  obtain ⟨hop, h1, h2, hv, harg⟩ := h.mask
  rw [word_eq_iff, op_and, rz1_and, v_and, rz2_and, arg_and, h.matchBits, hop, h1, hv, h2, harg]
  by_cases hv : op ∈ [0, 3, 4, 5] <;> by_cases ha : op ∈ [2, 3, 4, 5] <;>
    simp only [hv, ha, if_true, if_false, BitVec.and_allOnes, packWord_op, packWord_rz1, packWord_v, packWord_rz2,
      packWord_arg] <;> simp

/-- The rows of the table are the six commands'. -/
theorem rowShape_of_mem {r : OpcodeRow} (hr : r ∈ opcodeTable) : ∃ op ≤ 5, RowShape r op := by
  simp only [opcodeTable, List.mem_cons, List.not_mem_nil, or_false] at hr
  rcases hr with rfl | rfl | rfl | rfl | rfl | rfl
  · exact ⟨0, by decide, fun i => by cases i <;> simp [Instr.mnemonic, opNumber], by decide, by decide⟩
  · exact ⟨1, by decide, fun i => by cases i <;> simp [Instr.mnemonic, opNumber], by decide, by decide⟩
  · exact ⟨2, by decide, fun i => by cases i <;> simp [Instr.mnemonic, opNumber], by decide, by decide⟩
  · exact ⟨3, by decide, fun i => by cases i <;> simp [Instr.mnemonic, opNumber], by decide, by decide⟩
  · exact ⟨4, by decide, fun i => by cases i <;> simp [Instr.mnemonic, opNumber], by decide, by decide⟩
  · exact ⟨5, by decide, fun i => by cases i <;> simp [Instr.mnemonic, opNumber], by decide, by decide⟩

/-- Fields that obey the must-be-zero column are a command's (R73). -/
theorem exists_instr_of_fields {op arg : Nat} {v : Bool} (hop : op ≤ 5) (hv : op ∈ [0, 3, 4, 5] → v = false)
    (harg : op ∈ [2, 3, 4, 5] → arg = 0) : ∃ i, opNumber i = op ∧ argNumber i = arg ∧ valueBit i = v := by
  obtain rfl | rfl | rfl | rfl | rfl | rfl : op = 0 ∨ op = 1 ∨ op = 2 ∨ op = 3 ∨ op = 4 ∨ op = 5 := by omega
  · exact ⟨.construct arg, rfl, rfl, (hv (by decide)).symm⟩
  · exact ⟨.setpin arg v, rfl, rfl, rfl⟩
  · exact ⟨.setall v, rfl, (harg (by decide)).symm, rfl⟩
  · exact ⟨.clear, rfl, (harg (by decide)).symm, (hv (by decide)).symm⟩
  · exact ⟨.transmit, rfl, (harg (by decide)).symm, (hv (by decide)).symm⟩
  · exact ⟨.query, rfl, (harg (by decide)).symm, (hv (by decide)).symm⟩

/-- A row's mask and match pick exactly the words that decode to its command (R73). -/
theorem RowShape.spells_iff {r : OpcodeRow} {op : Nat} (h : RowShape r op) (hop : op ≤ 5) (w : Word) :
    w &&& r.mask = r.matchBits ↔ ∃ i, decode w = .command i ∧ i.mnemonic = r.mnemonic := by
  simp only [h.matches_iff, h.mnemonic, decode_eq_command_iff]
  constructor
  · rintro ⟨hw, h1, hv, h2, harg⟩
    obtain ⟨i, hi, hi', hi''⟩ :=
      exists_instr_of_fields (arg := w.arg.toNat) hop hv fun hm => congrArg BitVec.toNat (harg hm)
    refine ⟨i, ⟨?_, hi'.symm, hi''.symm, h1, h2⟩, hi⟩
    rw [hw, hi, BitVec.toNat_ofNat, Nat.mod_eq_of_lt (by omega)]
  · rintro ⟨i, ⟨hw, harg, hv, h1, h2⟩, rfl⟩
    refine ⟨?_, h1, fun hm => hv.trans (valueBit_eq_false hm), h2, fun hm => ?_⟩
    · rw [← hw, BitVec.ofNat_toNat, BitVec.setWidth_eq]
    · exact BitVec.eq_of_toNat_eq (harg.trans (argNumber_eq_zero hm))

/-- A mnemonic names one row. -/
theorem opcodeTable_mnemonic_inj :
    ∀ r ∈ opcodeTable, ∀ r' ∈ opcodeTable, r.mnemonic = r'.mnemonic → r = r' := by decide

end Sys2Proof.Laws.FieldBits

namespace Sys2Proof.Machine

open Sys2Proof.Laws.FieldBits

/-! ## The assembler's words (R80) -/

/-- A number that fits ARG, widened to a word, is itself. -/
theorem ofNat_arg_zeroExtend {n : Nat} (h : n ≤ 0xFFFF) : (BitVec.ofNat 16 n).zeroExtend 32 = BitVec.ofNat 32 n := by
  refine BitVec.eq_of_toNat_eq ?_
  simp only [BitVec.truncate_eq_setWidth, BitVec.toNat_setWidth, BitVec.toNat_ofNat]
  omega

/-- The pack of the fields, with ARG as a number (R70, R80). -/
theorem packWord_ofNat_arg (op : BitVec 4) (v : Bool) {n : Nat} (h : n ≤ 0xFFFF) :
    packWord op v (BitVec.ofNat 16 n) =
      (op.zeroExtend 32 <<< 28) ||| ((BitVec.ofBool v).zeroExtend 32 <<< 24) ||| BitVec.ofNat 32 n := by
  rw [packWord, ofNat_arg_zeroExtend h]

theorem assemble_of_wellFormed {i : Instr} (h : i.WellFormed) : (AsmLine.command i).assemble = .ok (encode i) :=
  if_pos h

theorem assemble_of_wide {i : Instr} (h : ¬ i.WellFormed) :
    (AsmLine.command i).assemble = .error .operandTooWide :=
  if_neg h

end Sys2Proof.Machine

namespace Sys2Proof.Safety

open Sys2Proof.Machine Sys2Proof.Laws.FieldBits

/-- Settles O5: the command's word is the pack of its fields, from which the decoder reads it back. -/
theorem decodeOfEncodeIsTheCommand : Obligations.DecodeOfEncodeIsTheCommand :=
  fun _ h => decode_encode h

/-- Settles O6: the fields of the word are those of the command, and the fields are the whole word. -/
theorem encodeOfDecodeIsTheWord : Obligations.EncodeOfDecodeIsTheWord := by
  intro w i h
  obtain ⟨hop, harg, hv, h1, h2⟩ := fields_of_decode_command h
  exact ⟨(wellFormed_iff i).mpr (harg ▸ w.arg.isLt), encode_eq_of_fields hop harg hv h1 h2⟩

/-- Settles O2: both sides say the same of the fields; words of two rows would decode to one command. -/
theorem wordsSpellCommandsByMaskAndMatch : Obligations.WordsSpellCommandsByMaskAndMatch := by
  have hspells : ∀ (w : Word), ∀ r ∈ opcodeTable,
      w &&& r.mask = r.matchBits ↔ ∃ i, decode w = .command i ∧ i.mnemonic = r.mnemonic := by
    intro w r hr
    obtain ⟨op, hop, hshape⟩ := rowShape_of_mem hr
    exact hshape.spells_iff hop w
  refine ⟨hspells, fun w r hr r' hr' h h' => ?_, rfl⟩
  obtain ⟨i, hi, hmnemonic⟩ := (hspells w r hr).mp h
  obtain ⟨i', hi', hmnemonic'⟩ := (hspells w r' hr').mp h'
  cases hi.symm.trans hi'
  exact opcodeTable_mnemonic_inj r hr r' hr' (hmnemonic.symm.trans hmnemonic')

/-- Settles O4, from the fields of a word that decodes to a command. -/
theorem decodedOperandsAreTheFields : Obligations.DecodedOperandsAreTheFields := by
  intro w
  refine ⟨fun n h => ?_, fun index v h => ?_, fun v h => ?_⟩
  · obtain ⟨-, harg, -⟩ := fields_of_decode_command h
    exact harg.symm.trans w.arg_toNat
  · obtain ⟨-, harg, hv, -⟩ := fields_of_decode_command h
    exact ⟨harg.symm.trans w.arg_toNat, hv.symm⟩
  · obtain ⟨-, -, hv, -⟩ := fields_of_decode_command h
    exact hv.symm

/-- Settles O7: an operand is refused by well-formedness, and the encoder's pack is the table's formula. -/
theorem assemblerEmitsTheTablesWords : Obligations.AssemblerEmitsTheTablesWords := by
  refine ⟨fun n h => ?construct, fun index v h => ?setpin, fun v => ?setall, by decide, by decide, by decide,
    fun w h => if_pos h, fun n h => ?wideCount, fun index v h => ?wideIndex, fun w h => if_neg (Nat.not_lt.mpr h)⟩
  case construct =>
    rw [assemble_of_wellFormed ((wellFormed_iff (.construct n)).mpr (Nat.lt_succ_of_le h)), encode,
      packWord_ofNat_arg _ _ h]
    rfl
  case setpin =>
    rw [assemble_of_wellFormed ((wellFormed_iff (.setpin index v)).mpr (Nat.lt_succ_of_le h)), encode,
      packWord_ofNat_arg _ _ h]
    rfl
  case setall => cases v <;> decide
  case wideCount => exact assemble_of_wide fun hwf => absurd ((wellFormed_iff _).mp hwf) (Nat.not_lt.mpr h)
  case wideIndex => exact assemble_of_wide fun hwf => absurd ((wellFormed_iff _).mp hwf) (Nat.not_lt.mpr h)

/-- Settles O1: the decoder computes each of the spec's vectors. -/
theorem specWordsDecode : Obligations.SpecWordsDecode := by
  refine ⟨by decide, by decide, by decide, by decide, by decide, by decide, by decide, by decide, by decide,
    fun w hw => ?illegal⟩
  case illegal =>
    simp only [List.mem_cons, List.not_mem_nil, or_false] at hw
    rcases hw with rfl | rfl | rfl | rfl | rfl | rfl | rfl | rfl | rfl <;> exact ⟨_, rfl⟩

end Sys2Proof.Safety

/-! # The invariant (10_state.md R22-R36, 60_exceptions.md R180-R189)

Which micro-step is next is said once, by `NextRow`; what the invariant says of the lines and of the shifted bits is
put row by row; then each kind of step keeps it. -/

namespace Sys2Proof.Machine

open Sys2Proof.Safety

/-! ## The micro-step that is next -/

/-- The counter names transmit step `k` at `upc = k` under TRANSMIT and at `upc = 4 + k` under CONSTRUCT (R27, R131). -/
theorem transmitAt_eq_some_iff {s : State} {k : Nat} :
    transmitAt s = some k ↔ s.seqOp = .transmit ∧ s.upc = k ∨ s.seqOp = .construct ∧ s.upc = 4 + k := by
  refine ⟨fun h => ?_, transmitAt_of_upc⟩
  cases hop : s.seqOp with
  | none => simp [transmitAt, hop] at h
  | transmit => simpa [transmitAt, hop] using h
  | construct =>
    simp only [transmitAt, hop, Option.ite_none_right_eq_some, Option.some.injEq] at h
    exact .inr ⟨rfl, by omega⟩

/-- Before its fourth micro-step is done a construction has no transmit step next (R100). -/
theorem transmitAt_eq_none_of_construct {s : State} (hop : s.seqOp = .construct) (hupc : s.upc < 4) :
    transmitAt s = none := by
  simp [transmitAt, hop, Nat.not_le.mpr hupc]

/-- The rows of R100 and R131: the action that is next in `s`, and the counter that names it. -/
inductive NextRow (s : State) : MicroAct → Prop where
  | configureSdata (hop : s.seqOp = .construct) (hupc : s.upc = 0) : NextRow s (.configure .sdata)
  | configureSclk (hop : s.seqOp = .construct) (hupc : s.upc = 1) : NextRow s (.configure .sclk)
  | configureLatch (hop : s.seqOp = .construct) (hupc : s.upc = 2) : NextRow s (.configure .latch)
  | zeroBuffer (hop : s.seqOp = .construct) (hupc : s.upc = 3) : NextRow s .zeroBuffer
  | latchLow (hk : transmitAt s = some 0) : NextRow s (.write .latch .low)
  | clockLow {j : Nat} (hj : j < s.outputCount) (hk : transmitAt s = some (1 + 3 * j)) : NextRow s (.write .sclk .low)
  | bit {j : Nat} (hj : j < s.outputCount) (hk : transmitAt s = some (2 + 3 * j)) : NextRow s (.sendBit j)
  | clockHigh {j : Nat} (hj : j < s.outputCount) (hk : transmitAt s = some (3 + 3 * j)) : NextRow s (.write .sclk .high)
  | latchHigh (hk : transmitAt s = some (24 * s.regCount + 1)) : NextRow s (.write .latch .high)
  | finish (hk : transmitAt s = some (24 * s.regCount + 2)) : NextRow s .finish

/-- An action of the table of R131 is in its row. -/
theorem NextRow.of_transmitAct {s : State} {k : Nat} {a : MicroAct} (hk : transmitAt s = some k)
    (ha : transmitAct s.regCount k = some a) : NextRow s a := by
  rcases transmitStep_cases s.regCount k with rfl | ⟨j, hj, rfl⟩ | ⟨j, hj, rfl⟩ | ⟨j, hj, rfl⟩ | rfl | rfl | hlt
  · rw [transmitAct_first] at ha; cases ha; exact .latchLow hk
  · rw [transmitAct_clockLow hj] at ha; cases ha; exact .clockLow hj hk
  · rw [transmitAct_sendBit hj] at ha; cases ha; exact .bit hj hk
  · rw [transmitAct_clockHigh hj] at ha; cases ha; exact .clockHigh hj hk
  · rw [transmitAct_latch] at ha; cases ha; exact .latchHigh hk
  · rw [transmitAct_finish] at ha; cases ha; exact .finish hk
  · rw [transmitAct_past hlt] at ha; cases ha

/-- The action `SEQ_OP` and `upc` name is in its row. -/
theorem NextRow.of_currentAct {s : State} {a : MicroAct} (h : currentAct s = some a) : NextRow s a := by
  cases hk : transmitAt s with
  | some k => exact .of_transmitAct hk ((currentAct_of_transmitAt hk).symm.trans h)
  | none =>
    cases hop : s.seqOp with
    | none => simp [currentAct, hop] at h
    | transmit => simp [transmitAt, hop] at hk
    | construct =>
      have hupc : s.upc < 4 := by simpa [transmitAt, hop] using hk
      rw [currentAct, hop] at h
      obtain hu | hu | hu | hu : s.upc = 0 ∨ s.upc = 1 ∨ s.upc = 2 ∨ s.upc = 3 := by omega
      · rw [hu] at h; cases h; exact .configureSdata hop hu
      · rw [hu] at h; cases h; exact .configureSclk hop hu
      · rw [hu] at h; cases h; exact .configureLatch hop hu
      · rw [hu] at h; cases h; exact .zeroBuffer hop hu

/-- A micro-step that answers a next state runs a row. -/
theorem microStep_row {s t : State} (h : microStep s = .next t) : ∃ a, NextRow s a ∧ runAct a s = .next t := by
  obtain ⟨a, ha, h⟩ := microStep_next h
  exact ⟨a, .of_currentAct ha, h⟩

/-- A rise of a LOW clock shifts the known level of the data line in (R181). -/
theorem pinWrite_sclk_rise_stages {s : State} {bit : Bool} (hc : s.lines.sclk.level = .known .low)
    (hd : s.lines.sdata.level = .known (levelOf bit)) :
    (pinWrite .sclk .high s).stages = shiftStages bit s.stages := by
  rw [pinWrite_sclk_rise hc hd]
  cases bit <;> rfl

/-- RZ3 of a response is 0 (R71). -/
theorem responseWord_rz3 (q : Bool) (c : BitVec 4) : (responseWord q c).extractLsb' 5 3 = 0 := by
  cases q <;> revert c <;> decide

end Sys2Proof.Machine

namespace Sys2Proof.Safety

open Sys2Proof.Machine

/-! ## What the invariant says at each row -/

section
variable {s : State}

/-- Before a clock falls, and before LATCH rises (`j = 8N`): `j` bits have been sent. -/
theorem transmitLines_clockLow {j : Nat} (hj : j ≤ s.outputCount) :
    TransmitLines s (1 + 3 * j) ↔ s.lines.latch.level = .known .low ∧
      (1 ≤ j → s.lines.sclk.level = .known .high ∧
        s.lines.sdata.level = .known (levelOf (s.out (s.outputCount - 1 - (j - 1))))) := by
  have hj' : j ≤ 8 * s.regCount := hj
  have hmin : min ((1 + 3 * j - 3) / 3) (s.outputCount - 1) = j - 1 := by omega
  have h2 : 2 ≤ 1 + 3 * j ↔ 1 ≤ j := by omega
  have h3 : 3 ≤ 1 + 3 * j ↔ 1 ≤ j := by omega
  rw [TransmitLines, hmin, h2, h3, if_pos (by omega), if_pos (by omega), ← imp_and]
  simp

/-- Before a bit is put on the data line. -/
theorem transmitLines_bit {j : Nat} (hj : j < s.outputCount) :
    TransmitLines s (2 + 3 * j) ↔ s.lines.latch.level = .known .low ∧ s.lines.sclk.level = .known .low ∧
      (1 ≤ j → s.lines.sdata.level = .known (levelOf (s.out (s.outputCount - 1 - (j - 1))))) := by
  have hj' : j < 8 * s.regCount := hj
  have hmin : min ((2 + 3 * j - 3) / 3) (s.outputCount - 1) = j - 1 := by omega
  have h3 : 3 ≤ 2 + 3 * j ↔ 1 ≤ j := by omega
  rw [TransmitLines, hmin, h3, if_pos (by omega), if_neg (by omega)]
  simp [show 1 ≤ 2 + 3 * j by omega]

/-- Before a clock rises: the bit is on the data line. -/
theorem transmitLines_clockHigh {j : Nat} (hj : j < s.outputCount) :
    TransmitLines s (3 + 3 * j) ↔ s.lines.latch.level = .known .low ∧ s.lines.sclk.level = .known .low ∧
      s.lines.sdata.level = .known (levelOf (s.out (s.outputCount - 1 - j))) := by
  have hj' : j < 8 * s.regCount := hj
  have hmin : min ((3 + 3 * j - 3) / 3) (s.outputCount - 1) = j := by omega
  rw [TransmitLines, hmin, if_pos (by omega), if_neg (by omega)]
  simp [show 1 ≤ 3 + 3 * j by omega, show 2 ≤ 3 + 3 * j by omega]

/-- Before the last micro-step. -/
theorem transmitLines_finish (h1 : 1 ≤ s.regCount) :
    TransmitLines s (24 * s.regCount + 2) ↔ s.lines.latch.level = .known .high ∧ s.lines.sclk.level = .known .high ∧
      s.lines.sdata.level = .known (levelOf (s.out 0)) := by
  have hlast : s.outputCount - 1 - min ((24 * s.regCount + 2 - 3) / 3) (s.outputCount - 1) = 0 := by
    simp only [State.outputCount]; omega
  rw [TransmitLines, hlast, if_neg (by omega), if_pos (by omega)]
  simp [show 3 ≤ 24 * s.regCount + 2 by omega]

/-- Nothing is said before the first write. -/
theorem transmitLines_zero : TransmitLines s 0 := by simp [TransmitLines]

/-- The first `m` stages hold the last `m` logical outputs, in place. -/
def ShiftedBits (s : State) (m : Nat) : Prop := ∀ i < m, s.stages[i]? = some (s.out (s.outputCount - m + i))

theorem shiftedBits_zero : ShiftedBits s 0 := by simp [ShiftedBits]

/-- A rise of the clock brings the next bit in at stage 0 (R181). -/
theorem ShiftedBits.rise {j : Nat} (h : ShiftedBits s j) (hj : j < s.outputCount)
    (hlen : s.stages.length = s.outputCount) (hc : s.lines.sclk.level = .known .low)
    (hd : s.lines.sdata.level = .known (levelOf (s.out (s.outputCount - 1 - j)))) :
    ShiftedBits (pinWrite .sclk .high s) (j + 1) := by
  intro i hi
  rw [pinWrite_sclk_rise_stages hc hd, shiftStages_getElem? _ _ (by omega), pinWrite_out, pinWrite_outputCount]
  split
  · congr 2; omega
  · rw [h (i - 1) (by omega)]; congr 2; omega

theorem risesBefore_clockLow {n j : Nat} (hj : j ≤ 8 * n) : risesBefore n (1 + 3 * j) = j := by
  unfold risesBefore; omega

theorem risesBefore_bit {n j : Nat} (hj : j < 8 * n) : risesBefore n (2 + 3 * j) = j := by
  unfold risesBefore; omega

theorem risesBefore_clockHigh {n j : Nat} (hj : j < 8 * n) : risesBefore n (3 + 3 * j) = j := by
  unfold risesBefore; omega

theorem risesBefore_finish (n : Nat) : risesBefore n (24 * n + 2) = 8 * n := by
  unfold risesBefore; omega

/-- The bits shifted so far. -/
theorem Inv.shiftedBits (hi : Inv s) {k : Nat} (hk : transmitAt s = some k) :
    ShiftedBits s (risesBefore s.regCount k) :=
  (hi.shifted k hk).1

/-! ## A step of the transmission keeps the invariant -/

section
variable (hi : Inv s) (hm : s.mode = .busy)
include hi hm

/-- The lines at the transmit step that is next. -/
theorem Inv.transmitLines {k : Nat} (hk : transmitAt s = some k) : AllOut s.lines ∧ TransmitLines s k :=
  (linesOk_transmit hm hk).mp hi.lines

/-- No transmit step is past the table (R27). -/
theorem Inv.transmitAt_le {k : Nat} (hk : transmitAt s = some k) : k ≤ 24 * s.regCount + 2 := by
  obtain ⟨-, -, hupc⟩ := (modeOk_busy hm).mp hi.modes
  rcases transmitAt_eq_some_iff.mp hk with ⟨hop, hk⟩ | ⟨hop, hk⟩
  · rw [hop] at hupc; simp at hupc; omega
  · rw [hop] at hupc; simp at hupc; omega

/-- A row that writes a line keeps the invariant if it leaves the lines and the shifted bits as the next row finds
them. -/
theorem Inv.of_write_row {k : Nat} {l : Line} {lvl : Level} (hk : transmitAt s = some k)
    (hle : k ≤ 24 * s.regCount + 1) (hlines : TransmitLines (pinWrite l lvl s).nextUpc (k + 1))
    (hbits : ShiftedBits (pinWrite l lvl s) (risesBefore s.regCount (k + 1)))
    (houts : k = 24 * s.regCount + 1 → (pinWrite l lvl s).outs = (pinWrite l lvl s).stages) :
    Inv (pinWrite l lvl s).nextUpc := by
  obtain ⟨h1, hfits, -⟩ := (modeOk_busy hm).mp hi.modes
  obtain ⟨hstages, houtsLen⟩ := hi.chain
  obtain ⟨⟨hsdata, hsclk, hlatch⟩, -⟩ := hi.transmitLines hm hk
  have hm' : (pinWrite l lvl s).nextUpc.mode = .busy := by simp [hm]
  have hk' : transmitAt (pinWrite l lvl s).nextUpc = some (k + 1) :=
    transmitAt_advance hk (by simp) (by simp)
  have hout : ∀ l', ((pinWrite l lvl s).nextUpc.lines.get l').cfg = (s.lines.get l').cfg :=
    fun l' => pinWrite_line_cfg l l' lvl s
  obtain ⟨hstages', houts'⟩ := pinWrite_chain_length l lvl (houtsLen.trans hstages.symm)
  refine ⟨by simpa using hi.config, ?modes, by simpa [BufferOk] using hi.buffer,
    by simpa [RecordOk] using hi.record, ⟨by simp [hstages', hstages], by simp [houts', houtsLen]⟩, ?lines, ?shifted,
    fun hidle => by simp [hm] at hidle⟩
  case modes =>
    refine (modeOk_busy hm').mpr ⟨by simpa using h1, by simpa using hfits, ?_⟩
    simp only [State.nextUpc_seqOp, pinWrite_seqOp, State.nextUpc_upc, pinWrite_upc, State.nextUpc_regCount,
      pinWrite_regCount]
    exact (transmitAt_eq_some_iff.mp hk).imp (fun ⟨hop, hupc⟩ => ⟨hop, by omega⟩) fun ⟨hop, hupc⟩ => ⟨hop, by omega⟩
  case lines =>
    exact (linesOk_transmit hm' hk').mpr
      ⟨⟨(hout .sdata).trans hsdata, (hout .sclk).trans hsclk, (hout .latch).trans hlatch⟩, hlines⟩
  case shifted =>
    intro k'' hk''
    obtain rfl := Option.some.inj (hk'.symm.trans hk'')
    refine ⟨by simpa [ShiftedBits] using hbits, fun hge => houts ?_⟩
    simp only [State.nextUpc_regCount, pinWrite_regCount] at hge
    omega

/-- Transmit step 0 drives LATCH LOW. -/
theorem Inv.latchLow (hk : transmitAt s = some 0) : Inv (pinWrite .latch .low s).nextUpc :=
  hi.of_write_row hm hk (by omega)
    ((transmitLines_clockLow (Nat.zero_le _)).mpr ⟨by simp, by simp⟩)
    (by rw [show 0 + 1 = 1 + 3 * 0 by rfl, risesBefore_clockLow (Nat.zero_le _)]; exact shiftedBits_zero)
    (by omega)

variable {j : Nat} (hj : j < s.outputCount)
include hj

/-- Step `1 + 3j` drives SCLK LOW. -/
theorem Inv.clockLow (hk : transmitAt s = some (1 + 3 * j)) : Inv (pinWrite .sclk .low s).nextUpc := by
  have hj' : j < 8 * s.regCount := hj
  obtain ⟨-, hlines⟩ := hi.transmitLines hm hk
  obtain ⟨hlatch, hprev⟩ := (transmitLines_clockLow (Nat.le_of_lt hj)).mp hlines
  have hbits := hi.shiftedBits hk
  rw [risesBefore_clockLow (Nat.le_of_lt hj')] at hbits
  refine hi.of_write_row hm hk (by omega) ?lines ?bits (by omega)
  case lines =>
    rw [show 1 + 3 * j + 1 = 2 + 3 * j by omega]
    exact (transmitLines_bit (by simpa using hj)).mpr
      ⟨by simpa using hlatch, by simp, fun h1 => by simpa using (hprev h1).2⟩
  case bits =>
    rw [show 1 + 3 * j + 1 = 2 + 3 * j by omega, risesBefore_bit hj', pinWrite_sclk_low]
    exact hbits

/-- Step `2 + 3j` puts bit `j` on SDATA. -/
theorem Inv.sendBit (hk : transmitAt s = some (2 + 3 * j)) :
    Inv (pinWrite .sdata (levelOf (s.out (s.outputCount - 1 - j))) s).nextUpc := by
  have hj' : j < 8 * s.regCount := hj
  obtain ⟨-, hlines⟩ := hi.transmitLines hm hk
  obtain ⟨hlatch, hclock, -⟩ := (transmitLines_bit hj).mp hlines
  have hbits := hi.shiftedBits hk
  rw [risesBefore_bit hj'] at hbits
  refine hi.of_write_row hm hk (by omega) ?lines ?bits (by omega)
  case lines =>
    rw [show 2 + 3 * j + 1 = 3 + 3 * j by omega]
    exact (transmitLines_clockHigh (by simpa using hj)).mpr ⟨by simpa using hlatch, by simpa using hclock, by simp⟩
  case bits =>
    rw [show 2 + 3 * j + 1 = 3 + 3 * j by omega, risesBefore_clockHigh hj']
    exact hbits

/-- Step `3 + 3j` raises SCLK: the chain captures bit `j`. -/
theorem Inv.clockHigh (hk : transmitAt s = some (3 + 3 * j)) : Inv (pinWrite .sclk .high s).nextUpc := by
  have hj' : j < 8 * s.regCount := hj
  obtain ⟨-, hlines⟩ := hi.transmitLines hm hk
  obtain ⟨hlatch, hclock, hdata⟩ := (transmitLines_clockHigh hj).mp hlines
  obtain ⟨hlen, -⟩ := hi.chain
  have hbits := hi.shiftedBits hk
  rw [risesBefore_clockHigh hj'] at hbits
  refine hi.of_write_row hm hk (by omega) ?lines ?bits (by omega)
  case lines =>
    rw [show 3 + 3 * j + 1 = 1 + 3 * (j + 1) by omega]
    exact (transmitLines_clockLow (by simpa using hj)).mpr
      ⟨by simpa using hlatch, fun _ => ⟨by simp, by simpa using hdata⟩⟩
  case bits =>
    rw [show 3 + 3 * j + 1 = 1 + 3 * (j + 1) by omega, risesBefore_clockLow hj']
    exact hbits.rise hj hlen hclock hdata

omit hj

/-- Step `24N + 1` raises LATCH: the outputs take the stages. -/
theorem Inv.latchHigh (hk : transmitAt s = some (24 * s.regCount + 1)) : Inv (pinWrite .latch .high s).nextUpc := by
  obtain ⟨h1, -⟩ := (modeOk_busy hm).mp hi.modes
  have hk' : 24 * s.regCount + 1 = 1 + 3 * s.outputCount := by simp only [State.outputCount]; omega
  obtain ⟨-, hlines⟩ := hi.transmitLines hm (hk.trans (congrArg some hk'))
  obtain ⟨hlatch, hlast⟩ := (transmitLines_clockLow (Nat.le_refl _)).mp hlines
  obtain ⟨hclock, hdata⟩ := hlast (by simp only [State.outputCount]; omega)
  rw [show s.outputCount - 1 - (s.outputCount - 1) = 0 by omega] at hdata
  have hbits := hi.shiftedBits hk
  rw [hk', risesBefore_clockLow (j := s.outputCount) (Nat.le_refl _)] at hbits
  refine hi.of_write_row hm hk (Nat.le_refl _) ?lines ?bits fun _ => ?outs
  case lines =>
    exact (transmitLines_finish (by simpa using h1)).mpr ⟨by simp, by simpa using hclock, by simpa using hdata⟩
  case bits =>
    rw [risesBefore_finish]
    exact hbits
  case outs => exact pinWrite_latch_high_outs (congrArg LineLevel.physical hlatch)

/-- The last micro-step leaves the outputs, the lines and the buffer settled (R31, R186). -/
theorem Inv.finish (hk : transmitAt s = some (24 * s.regCount + 2)) : Inv (finishSequence s) := by
  obtain ⟨h1, hfits, -⟩ := (modeOk_busy hm).mp hi.modes
  obtain ⟨hseen, hcode, -⟩ := hi.record
  obtain ⟨hall, hlines⟩ := hi.transmitLines hm hk
  obtain ⟨hlatch, hclock, hdata⟩ := (transmitLines_finish h1).mp hlines
  obtain ⟨hbits, houts⟩ := hi.shifted _ hk
  rw [risesBefore_finish] at hbits
  refine ⟨hi.config, (modeOk_idle rfl).mpr ⟨h1, hfits, rfl, rfl⟩, hi.buffer, ⟨hseen, hcode, responseWord_rz3 ..⟩,
    hi.chain, (linesOk_idle rfl).mpr ⟨hall, hlatch, hclock, _, hdata⟩, fun k h => by simp [transmitAt] at h,
    fun _ => ⟨houts (Nat.le_refl _), fun _ => ⟨hdata, fun i hlt => ?_⟩⟩⟩
  have hbit := hbits i hlt
  rw [State.outputCount, Nat.sub_self, Nat.zero_add] at hbit
  exact (congrArg (·[i]?) (houts (Nat.le_refl _))).trans hbit

/-! ## A step of a construction before its transmission keeps the invariant -/

/-- A row that configures a line keeps the invariant if it leaves the lines as the next row finds them. -/
theorem Inv.of_configure_row {l : Line} (hop : s.seqOp = .construct) (hupc : s.upc < 3)
    (hlines : LinesOk (pinConfigure l s).nextUpc) : Inv (pinConfigure l s).nextUpc := by
  obtain ⟨h1, hfits, -⟩ := (modeOk_busy hm).mp hi.modes
  obtain ⟨hstages, houts⟩ := hi.chain
  obtain ⟨hstages', houts'⟩ := pinConfigure_chain_length l hstages houts
  have hk : transmitAt (pinConfigure l s).nextUpc = none :=
    transmitAt_eq_none_of_construct (by simpa using hop) (by simp; omega)
  refine ⟨by simpa using hi.config, (modeOk_busy (by simpa using hm)).mpr ?modes, by simpa [BufferOk] using hi.buffer,
    by simpa [RecordOk] using hi.record, ⟨by simpa [State.outputCount] using hstages', ?outs⟩, hlines,
    fun k h => by simp [hk] at h, fun h => by simp [hm] at h⟩
  case modes => exact ⟨by simpa using h1, by simpa using hfits, .inr ⟨by simpa using hop, by simp; omega⟩⟩
  case outs => simpa [State.outputCount] using houts'

/-- Which lines a construction has configured before its transmission (R102). -/
theorem Inv.configuredLines (hop : s.seqOp = .construct) (hupc : s.upc < 4) :
    s.lines.sdata.cfg = (if 0 < s.upc then .out else .z) ∧ s.lines.sclk.cfg = (if 1 < s.upc then .out else .z) ∧
      s.lines.latch.cfg = (if 2 < s.upc then .out else .z) :=
  (linesOk_prefix hm (transmitAt_eq_none_of_construct hop hupc)).mp hi.lines

/-- The three configurations, in the order of R102. -/
theorem Inv.configure {l : Line} (hop : s.seqOp = .construct)
    (hrow : l = .sdata ∧ s.upc = 0 ∨ l = .sclk ∧ s.upc = 1 ∨ l = .latch ∧ s.upc = 2) :
    Inv (pinConfigure l s).nextUpc := by
  have hupc : s.upc < 3 := by omega
  obtain ⟨hsdata, hsclk, hlatch⟩ := hi.configuredLines hm hop (by omega)
  have hk : transmitAt (pinConfigure l s).nextUpc = none :=
    transmitAt_eq_none_of_construct (by simpa using hop) (by simp; omega)
  refine hi.of_configure_row hm hop hupc ((linesOk_prefix (by simpa using hm) hk).mpr ?_)
  rcases hrow with ⟨rfl, hu⟩ | ⟨rfl, hu⟩ | ⟨rfl, hu⟩
  all_goals
    rw [hu] at hsdata hsclk hlatch
    simp [hu, hsdata, hsclk, hlatch]

/-- The zeroing step leaves transmit step 0 next. -/
theorem Inv.zeroBuffer (hop : s.seqOp = .construct) (hupc : s.upc = 3) :
    Inv (s.setBuf (s.buf.fill s.regCount (fillByte false))).markDirty.nextUpc := by
  obtain ⟨h1, hfits, -⟩ := (modeOk_busy hm).mp hi.modes
  obtain ⟨hwf, hwithin⟩ := hi.buffer
  obtain ⟨hsdata, hsclk, hlatch⟩ := hi.configuredLines hm hop (by omega)
  rw [hupc] at hsdata hsclk hlatch
  have hm' : (s.setBuf (s.buf.fill s.regCount (fillByte false))).markDirty.nextUpc.mode = .busy := hm
  have hk : transmitAt (s.setBuf (s.buf.fill s.regCount (fillByte false))).markDirty.nextUpc = some 0 :=
    transmitAt_of_upc (.inr ⟨hop, congrArg (· + 1) hupc⟩)
  refine ⟨hi.config, (modeOk_busy hm').mpr ⟨h1, hfits, .inr ⟨hop, ?upc⟩⟩,
    ⟨Memory.wf_fill _ _ hwf, Memory.within_fill _ hwithin hfits⟩, hi.record, hi.chain,
    (linesOk_transmit hm' hk).mpr ⟨⟨hsdata, hsclk, hlatch⟩, transmitLines_zero⟩, ?shifted,
    fun h => by simp [hm] at h⟩
  case upc => simp [hupc]
  case shifted =>
    intro k hk'
    obtain rfl := Option.some.inj (hk.symm.trans hk')
    exact ⟨by simp [risesBefore], by omega⟩

/-- A micro-step keeps the invariant: each row does. -/
theorem Inv.of_microStep {t : State} (h : microStep s = .next t) : Inv t := by
  obtain ⟨-, hfits, -⟩ := (modeOk_busy hm).mp hi.modes
  obtain ⟨a, hrow, h⟩ := microStep_row h
  cases hrow with
  | configureSdata hop hupc => cases h; exact hi.configure hm hop (.inl ⟨rfl, hupc⟩)
  | configureSclk hop hupc => cases h; exact hi.configure hm hop (.inr (.inl ⟨rfl, hupc⟩))
  | configureLatch hop hupc => cases h; exact hi.configure hm hop (.inr (.inr ⟨rfl, hupc⟩))
  | zeroBuffer hop hupc =>
    rw [runAct_zeroBuffer hfits] at h
    cases h; exact hi.zeroBuffer hm hop hupc
  | latchLow hk => cases h; exact hi.latchLow hm hk
  | clockLow hj hk => cases h; exact hi.clockLow hm hj hk
  | bit hj hk =>
    rw [runAct_sendBit hj hfits] at h
    cases h; exact hi.sendBit hm hj hk
  | clockHigh hj hk => cases h; exact hi.clockHigh hm hj hk
  | latchHigh hk => cases h; exact hi.latchHigh hm hk
  | finish hk => cases h; exact hi.finish hm hk

end

/-! ## The accepting step of a command keeps the invariant -/

/-- A response without a fault leaves the fault record (R26, R71). -/
theorem RecordOk.respond (h : RecordOk s) (q : Bool) (c : BitVec 4) : RecordOk (s.respond (responseWord q c)) := by
  obtain ⟨hseen, hcode, -⟩ := h
  exact ⟨hseen, hcode, responseWord_rz3 q c⟩

/-- The record of a raised fault names a code that can be raised (R160, R161). -/
theorem recordOk_raiseFault (c : FaultCode) : RecordOk (raiseFault c s) := by
  obtain ⟨-, h5⟩ := c.code_range
  exact ⟨by cases c <;> rfl, h5, responseWord_rz3 ..⟩

section
variable (hi : Inv s)
include hi

/-- The host's moves are no part of the invariant. -/
theorem Inv.setHost (moves : List HostMove) : Inv (s.setHost moves) :=
  hi.of_fields rfl rfl rfl rfl rfl rfl rfl rfl rfl rfl rfl hi.record

theorem Inv.of_raiseFault (c : FaultCode) : Inv (raiseFault c s) :=
  hi.of_fields rfl rfl rfl rfl rfl rfl rfl rfl rfl rfl rfl (recordOk_raiseFault c)

theorem Inv.respond (q : Bool) (c : BitVec 4) : Inv (s.respond (responseWord q c)) :=
  hi.of_fields rfl rfl rfl rfl rfl rfl rfl rfl rfl rfl rfl (hi.record.respond q c)

/-- A buffer command leaves the outputs equal to the stages; of the logical outputs nothing is said while `DIRTY`. -/
theorem Inv.mutated (hm : s.mode = .idle) {m : Memory} (hbuf : BufferOk (s.mutated m)) : Inv (s.mutated m) := by
  obtain ⟨-, -, hop, -⟩ := (modeOk_idle hm).mp hi.modes
  obtain ⟨houts, -⟩ := hi.settled hm
  have hm' : (s.mutated m).mode = .idle := hm
  have hk : transmitAt (s.mutated m) = none := transmitAt_of_none hop
  refine ⟨hi.config, (modeOk_idle hm').mpr ((modeOk_idle hm).mp hi.modes), hbuf,
    RecordOk.respond (s := (s.setBuf m).markDirty) hi.record false 0, hi.chain,
    (linesOk_idle hm').mpr ((linesOk_idle hm).mp hi.lines), fun k h => by simp [hk] at h,
    fun _ => ⟨houts, fun hd => Bool.noConfusion hd⟩⟩

/-- A TRANSMIT leaves transmit step 0 next. -/
theorem Inv.startTransmit (hm : s.mode = .idle) : Inv (startSequence .transmit s) := by
  obtain ⟨h1, hfits, -⟩ := (modeOk_idle hm).mp hi.modes
  obtain ⟨hall, -⟩ := (linesOk_idle hm).mp hi.lines
  refine ⟨hi.config, (modeOk_busy rfl).mpr ⟨h1, hfits, .inl ⟨rfl, Nat.zero_le _⟩⟩, hi.buffer, hi.record, hi.chain,
    (linesOk_transmit rfl rfl).mpr ⟨hall, transmitLines_zero⟩, ?shifted, fun h => by cases h⟩
  case shifted =>
    intro k hk
    cases hk
    exact ⟨by simp [risesBefore], fun h => absurd h (Nat.not_succ_le_zero _)⟩

/-- A legal CONSTRUCT leaves the configuration of SDATA next. -/
theorem Inv.startConstruct (hm : s.mode = .unconfigured) {n : Nat} (hl : legalCount s.cfg n = true) :
    Inv (startSequence .construct (s.setCount n)) := by
  obtain ⟨hn, h1, hfits⟩ := setCount_regCount hi.config hl
  have hcount : 8 * n = (startSequence .construct (s.setCount n)).outputCount :=
    congrArg (8 * ·) hn.symm
  refine ⟨hi.config, (modeOk_busy rfl).mpr ⟨h1.trans_eq hn.symm, hn.trans_le hfits, .inr ⟨rfl, Nat.zero_le _⟩⟩,
    hi.buffer, hi.record, ⟨?stages, ?outs⟩, (linesOk_prefix rfl rfl).mpr ((linesOk_unconfigured hm).mp hi.lines),
    fun k hk => (by cases hk), fun h => (by cases h)⟩
  case stages | outs => exact (freeBits_length _ n).trans hcount

/-- Every command keeps the buffer canonical and inside its address space (R50). -/
theorem Inv.bufferOk_exec {i : Instr} {t : State} (h : exec i s = .next t) : BufferOk t := by
  obtain ⟨hwf, hwithin⟩ := hi.buffer
  have hfill : ∀ v, s.regCount ≤ s.cfg.maxRegs → BufferOk (s.mutated (s.buf.fill s.regCount (fillByte v))) :=
    fun v hfits => ⟨Memory.wf_fill _ _ hwf, Memory.within_fill _ hwithin hfits⟩
  cases i with
  | construct n => rcases execConstruct_next h with ⟨-, rfl⟩ | ⟨-, -, rfl⟩ | ⟨-, -, rfl⟩ <;> exact hi.buffer
  | setpin index value =>
    rcases execSetpin_next h with ⟨-, rfl⟩ | ⟨-, -, rfl⟩ | ⟨-, -, hlt, rfl⟩
    · exact hi.buffer
    · exact hi.buffer
    · exact ⟨Memory.wf_write _ _ hwf, Memory.within_write _ hwithin hlt⟩
  | setall value =>
    rcases execSetall_next h with ⟨-, rfl⟩ | ⟨-, hfits, rfl⟩
    · exact hi.buffer
    · exact hfill value hfits
  | clear =>
    rcases execClear_next h with ⟨-, rfl⟩ | ⟨-, hfits, rfl⟩
    · exact hi.buffer
    · exact hfill false hfits
  | transmit => rcases execTransmit_next h with ⟨-, rfl⟩ | ⟨-, rfl⟩ <;> exact hi.buffer
  | query => rcases execQuery_next h with ⟨-, rfl⟩ | ⟨-, rfl⟩ <;> exact hi.buffer

theorem Inv.of_exec {i : Instr} {t : State} (h : exec i s = .next t) : Inv t := by
  have hbuf := hi.bufferOk_exec h
  rcases exec_next h with ⟨c, rfl⟩ | ⟨hm, m, rfl⟩ | ⟨-, rfl⟩ | ⟨hm, rfl⟩ | ⟨hm, n, hl, rfl⟩
  · exact hi.of_raiseFault c
  · exact hi.mutated hm hbuf
  · exact hi.respond _ _
  · exact hi.startTransmit hm
  · exact hi.startConstruct hm hl

theorem Inv.of_acceptWord {w : Word} {t : State} (h : acceptWord w s = .next t) : Inv t := by
  rcases acceptWord_next h with ⟨i, -, h⟩ | ⟨_, -, rfl⟩
  · exact hi.of_exec h
  · exact hi.of_raiseFault _

end
end

/-! ## Reset -/

/-- A block right after power-on, with parameters that are not refused (R38). -/
theorem inv_powerOn {c : Config} (h : configOk c = true) : Inv (State.powerOn c) where
  config := h
  modes := ⟨rfl, rfl, rfl, rfl, rfl⟩
  buffer := ⟨rfl, rfl⟩
  record := ⟨rfl, Nat.zero_le _, responseWord_rz3 false 0⟩
  chain := ⟨rfl, rfl⟩
  lines := ⟨rfl, rfl, rfl⟩
  shifted := fun k hk => by cases hk
  settled := fun hm => by cases hm

/-- A reset gives the power-on state, but for the host's moves and the draws (R200). -/
theorem Inv.of_resetBlock {s : State} (hi : Inv s) : Inv (resetBlock s) :=
  have h := inv_powerOn hi.config
  h.of_fields rfl rfl rfl rfl rfl rfl rfl rfl rfl rfl rfl h.record

/-- Settles O53: a reset gives the power-on state, a micro-step is one of the rows, an accepted word a command or a
fault; a wait changes only the host's list. -/
theorem stepKeepsTheInvariant : Obligations.StepKeepsTheInvariant := by
  intro s t hi h
  rcases step_next h with ⟨rest, -, rfl⟩ | ⟨-, hm, h⟩ | ⟨w, rest, -, -, h⟩ | ⟨rest, -, -, rfl⟩ | ⟨-, -, rfl⟩
  · exact (hi.setHost rest).of_resetBlock
  · exact (hi.setHost (movesAfterBusy s.host)).of_microStep hm h
  · exact (hi.setHost rest).of_acceptWord h
  · exact hi.setHost rest
  · exact hi

/-- Settles O52: an accepted configuration elaborates to its power-on state. -/
theorem resetMeetsTheInvariant : Obligations.ResetMeetsTheInvariant := by
  refine ⟨inv_powerOn (by decide), fun c s h => ?_⟩
  unfold elaborate at h
  split at h
  · next hc => cases h; exact inv_powerOn hc
  · cases h

end Sys2Proof.Safety

/-! # The step (30_encoding.md R83, 60_exceptions.md R160-R177, 70_reset_and_hazards.md R211-R217) -/

namespace Sys2Proof.Machine

open Sys2Proof.Safety

/-! ## A micro-step and the host's moves (R83, R211) -/

/-- An answer with the host's moves of its next state replaced. -/
def answerWithHost (moves : List HostMove) : Answer → Answer
  | .next t => .next (t.setHost moves)
  | .fault f => .fault f
  | .refused r => .refused r

theorem pinWrite_setHost (l : Line) (lvl : Level) (s : State) (moves : List HostMove) :
    pinWrite l lvl (s.setHost moves) = (pinWrite l lvl s).setHost moves := by
  cases l with
  | sdata => rfl
  | sclk => simp only [pinWrite, State.chainReact, apply_ite (State.setHost · moves)]; rfl
  | latch => rfl

/-- No action looks at the host's moves. -/
theorem runAct_setHost (a : MicroAct) (s : State) (moves : List HostMove) :
    runAct a (s.setHost moves) = answerWithHost moves (runAct a s) := by
  cases a with
  | configure l => cases l <;> rfl
  | zeroBuffer =>
    simp only [runAct, zeroBuffer, fillBuffer, State.setHost_regCount, State.setHost_cfg]
    split <;> rfl
  | write l lvl => rw [runAct, pinWrite_setHost]; rfl
  | sendBit j =>
    simp only [runAct, loadByte, State.setHost_regCount, State.setHost_cfg, pinWrite_setHost]
    split <;> rfl
  | finish => rfl

theorem microStep_setHost (s : State) (moves : List HostMove) :
    microStep (s.setHost moves) = answerWithHost moves (microStep s) := by
  have he : currentAct (s.setHost moves) = currentAct s := rfl
  unfold microStep
  rw [he]
  split
  · exact runAct_setHost _ s moves
  · rfl

/-- A micro-step leaves the host's moves. -/
theorem microStep_host {s t : State} (h : microStep s = .next t) : t.host = s.host := by
  have hh := microStep_setHost s s.host
  rw [h] at hh
  have ht : t = t.setHost s.host := Host.Outcome.next.inj (h.symm.trans hh)
  rw [ht]
  rfl

/-- No action is without a meaning. -/
theorem runAct_ne_refused (a : MicroAct) (s : State) (r : Refusal) : runAct a s ≠ .refused r := by
  cases a with
  | zeroBuffer => rw [runAct, zeroBuffer, fillBuffer]; split <;> simp [advance]
  | sendBit j => rw [runAct, loadByte]; split <;> simp [advance]
  | configure | write | finish => simp [runAct, advance]

theorem microStep_ne_refused (s : State) (r : Refusal) : microStep s ≠ .refused r := by
  unfold microStep
  split
  · exact runAct_ne_refused _ s r
  · simp

/-- A word waits while the block is BUSY (R83). -/
theorem undisturbed_of_present {s : State} {w : Word} {rest : List HostMove} (hm : s.mode = .busy)
    (hh : s.host = .present w :: rest) : Undisturbed s :=
  ⟨hm, by simp [NoReset, hh], by rw [hh]; rfl⟩

/-- The step of a block that nothing disturbs is its micro-step. -/
theorem Undisturbed.step_eq_microStep {s : State} (h : Undisturbed s) : step s = microStep s := by
  rw [step_of_busy h.noReset h.busy, h.held]
  rfl

/-- A micro-step moves the counter on, or is the last and ends the sequence (R27, R137). -/
theorem microStep_progress {s t : State} (h : microStep s = .next t) :
    (t.mode = s.mode ∧ t.upc = s.upc + 1 ∧ t.seqOp = s.seqOp) ∨
      (transmitAt s = some (24 * s.regCount + 2) ∧ t = finishSequence s) := by
  obtain ⟨a, hrow, h⟩ := microStep_row h
  rcases runAct_next h with ⟨l, -, rfl⟩ | ⟨-, -, rfl⟩ | ⟨l, lvl, -, rfl⟩ | ⟨j, -, -, rfl⟩ | ⟨rfl, rfl⟩
  case inr.inr.inr.inr =>
    cases hrow with
    | finish hk => exact .inr ⟨hk, rfl⟩
  all_goals exact .inl (by simp)

/-! ## A command while BUSY -/

theorem exec_of_busy (i : Instr) {s : State} (hm : s.mode = .busy) : exec i s = .fault .commandWhileBusy := by
  cases i with
  | construct n => exact whenUnconfigured_busy _ hm
  | setpin | setall | clear | transmit | query => exact whenConstructed_busy _ hm

/-! ## `DIRTY` (R24) -/

/-- A command leaves `DIRTY`, or is a buffer command that sets it and answers that it is done. -/
theorem exec_dirty {i : Instr} {s t : State} (h : exec i s = .next t) :
    t.dirty = s.dirty ∨ (s.mode = .idle ∧ IsBufferCommand i ∧ t.dirty = true ∧ t.resp = responseDone) := by
  by_cases hi : IsBufferCommand i
  · rcases exec_next h with ⟨c, rfl⟩ | ⟨hm, m, rfl⟩ | ⟨-, rfl⟩ | ⟨-, rfl⟩ | ⟨-, n, -, rfl⟩
    · exact .inl rfl
    · exact .inr ⟨hm, hi, rfl, rfl⟩
    all_goals exact .inl rfl
  · cases i with
    | construct n => rcases execConstruct_next h with ⟨-, rfl⟩ | ⟨-, -, rfl⟩ | ⟨-, -, rfl⟩ <;> exact .inl rfl
    | transmit => rcases execTransmit_next h with ⟨-, rfl⟩ | ⟨-, rfl⟩ <;> exact .inl rfl
    | query => rcases execQuery_next h with ⟨-, rfl⟩ | ⟨-, rfl⟩ <;> exact .inl rfl
    | setpin | setall | clear => simp [IsBufferCommand] at hi

/-- A micro-step leaves `DIRTY`, or is the zeroing step and sets it, or is the last and clears it. -/
theorem microStep_dirty {s t : State} (h : microStep s = .next t) :
    t.dirty = s.dirty ∨ (t.dirty = true ∧ s.seqOp = .construct ∧ s.upc = 3) ∨
      (t.dirty = false ∧ t.mode = .idle ∧ transmitAt s = some (24 * s.regCount + 2)) := by
  obtain ⟨a, hrow, h⟩ := microStep_row h
  rcases runAct_next h with ⟨l, -, rfl⟩ | ⟨rfl, -, rfl⟩ | ⟨l, lvl, -, rfl⟩ | ⟨j, -, -, rfl⟩ | ⟨rfl, rfl⟩
  · exact .inl (by simp)
  · cases hrow with
    | zeroBuffer hop hupc => exact .inr (.inl ⟨rfl, hop, hupc⟩)
  · exact .inl (by simp)
  · exact .inl (by simp)
  · cases hrow with
    | finish hk => exact .inr (.inr ⟨rfl, rfl, hk⟩)

/-! ## Which rows write a line (R131) -/

/-- A row that appends a write to `TRACE` is that write's, or sends a bit. -/
theorem act_of_trace_write {a : MicroAct} {s t : State} {l : Line} {lvl : Level} (h : runAct a s = .next t)
    (htrace : t.trace = s.trace ++ [.write l lvl]) : a = .write l lvl ∨ l = .sdata ∧ ∃ j, a = .sendBit j := by
  rcases runAct_next h with ⟨l', -, rfl⟩ | ⟨-, -, rfl⟩ | ⟨l', lvl', rfl, rfl⟩ | ⟨j, rfl, -, rfl⟩ | ⟨-, rfl⟩
  · simp at htrace
  · simp at htrace
  · simp only [State.nextUpc_trace, pinWrite_trace, List.append_cancel_left_eq, List.cons.injEq, and_true,
      LineEvent.write.injEq] at htrace
    exact .inl (by rw [htrace.1, htrace.2])
  · simp only [State.nextUpc_trace, pinWrite_trace, List.append_cancel_left_eq, List.cons.injEq, and_true,
      LineEvent.write.injEq] at htrace
    exact .inr ⟨htrace.1.symm, j, rfl⟩
  · simp at htrace

end Sys2Proof.Machine

namespace Sys2Proof.Safety

open Sys2Proof.Machine

/-! ## Every step answers (R145, R169) -/

/-- Every row runs on a block whose `N` fits the buffer. -/
theorem runAct_of_row {s : State} {a : MicroAct} (hrow : NextRow s a) (hfits : s.regCount ≤ s.cfg.maxRegs) :
    ∃ t, runAct a s = .next t := by
  cases hrow with
  | zeroBuffer => exact ⟨_, runAct_zeroBuffer hfits⟩
  | bit hj => exact ⟨_, runAct_sendBit hj hfits⟩
  | configureSdata | configureSclk | configureLatch | latchLow | clockLow | clockHigh | latchHigh | finish =>
    exact ⟨_, rfl⟩

/-- Every number up to `24N + 2` is a row of R131. -/
theorem exists_transmitAct {n k : Nat} (h : k ≤ 24 * n + 2) : ∃ a, transmitAct n k = some a := by
  rcases transmitStep_cases n k with rfl | ⟨j, hj, rfl⟩ | ⟨j, hj, rfl⟩ | ⟨j, hj, rfl⟩ | rfl | rfl | hlt
  · exact ⟨_, transmitAct_first n⟩
  · exact ⟨_, transmitAct_clockLow hj⟩
  · exact ⟨_, transmitAct_sendBit hj⟩
  · exact ⟨_, transmitAct_clockHigh hj⟩
  · exact ⟨_, transmitAct_latch n⟩
  · exact ⟨_, transmitAct_finish n⟩
  · exact absurd h (Nat.not_le.mpr hlt)

/-- A BUSY block has a next action (R27). -/
theorem Inv.exists_currentAct {s : State} (hi : Inv s) (hm : s.mode = .busy) : ∃ a, currentAct s = some a := by
  cases hk : transmitAt s with
  | some k =>
    obtain ⟨a, ha⟩ := exists_transmitAct (hi.transmitAt_le hm hk)
    exact ⟨a, (currentAct_of_transmitAt hk).trans ha⟩
  | none =>
    obtain ⟨-, -, ⟨hop, -⟩ | ⟨hop, -⟩⟩ := (modeOk_busy hm).mp hi.modes
    · simp [transmitAt, hop] at hk
    · have hupc : s.upc < 4 := by simpa [transmitAt, hop] using hk
      obtain hu | hu | hu | hu : s.upc = 0 ∨ s.upc = 1 ∨ s.upc = 2 ∨ s.upc = 3 := by omega
      all_goals exact ⟨_, currentAct_of_construct hop hu rfl⟩

theorem Inv.microStep_answers {s : State} (hi : Inv s) (hm : s.mode = .busy) : ∃ t, microStep s = .next t := by
  obtain ⟨-, hfits, -⟩ := (modeOk_busy hm).mp hi.modes
  obtain ⟨a, ha⟩ := hi.exists_currentAct hm
  obtain ⟨t, h⟩ := runAct_of_row (.of_currentAct ha) hfits
  exact ⟨t, (microStep_of_act ha).trans h⟩

/-- A reported fault is a next state too (R160). -/
theorem Reports.answers {s : State} {fault : Option (BitVec 4)} {a : Answer} (h : Reports s fault a) :
    ∃ t, a = .next t := by
  cases fault with
  | some code => exact ⟨_, h⟩
  | none =>
    obtain ⟨t, h, -⟩ := h
    exact ⟨t, h⟩

/-- A ready block answers whatever the host's next move. -/
theorem Inv.readyStep_answers {s : State} (hi : Inv s) (hm : s.mode ≠ .busy) : ∃ t, readyStep s = .next t := by
  cases hh : s.host with
  | nil => exact ⟨_, readyStep_of_nil hh⟩
  | cons move rest =>
    cases move with
    | wait => exact ⟨_, readyStep_of_wait hh⟩
    | present w =>
      obtain ⟨t, h⟩ := Reports.answers (acceptWord_reports (s := s.setHost rest) hm hi.regCount_le w)
      exact ⟨t, (readyStep_of_present hh).trans h⟩
    | reset => exact ⟨resetBlock (s.setHost rest), by simp [readyStep, hh]⟩

/-- Settles O54: a reset always answers, a BUSY block has a row to run, and an accepted word answers a next state,
with a fault or without. -/
theorem stepNeverStops : Obligations.StepNeverStops := by
  intro s hi
  by_cases hr : ∃ rest, s.host = .reset :: rest
  · obtain ⟨rest, hh⟩ := hr
    exact ⟨_, step_of_reset hh⟩
  · have hr' : ∀ rest, s.host ≠ .reset :: rest := not_exists.mp hr
    by_cases hm : s.mode = .busy
    · obtain ⟨t, h⟩ := (hi.setHost (movesAfterBusy s.host)).microStep_answers hm
      exact ⟨t, (step_of_busy hr' hm).trans h⟩
    · obtain ⟨t, h⟩ := hi.readyStep_answers hm
      exact ⟨t, (step_of_ready hr' hm).trans h⟩

/-! ## How long BUSY lasts (R211, R217) -/

/-- Micro-step `k` of the sequence that `s` begins is next in `t`, the host making no move. -/
structure AtMicroStep (s : State) (k : Nat) (t : State) : Prop where
  inv : Inv t
  busy : t.mode = .busy
  upc : t.upc = k
  host : t.host = []
  op : t.seqOp = s.seqOp
  count : t.regCount = s.regCount

/-- The next micro-step is reached, unless this one is the last. -/
theorem AtMicroStep.advance {s t : State} {k : Nat} (h : AtMicroStep s k t)
    (hlast : transmitAt t ≠ some (24 * t.regCount + 2)) : ∃ u, step t = .next u ∧ AtMicroStep s (k + 1) u := by
  obtain ⟨u, hstep⟩ := stepNeverStops t h.inv
  have hmicro := (undisturbed_of_nil h.busy h.host).step_eq_microStep.symm.trans hstep
  obtain ⟨-, hn, -⟩ := microStep_frame hmicro
  rcases microStep_progress hmicro with ⟨hm, hupc, hop⟩ | ⟨hk, -⟩
  · exact ⟨u, hstep, stepKeepsTheInvariant t u h.inv hstep, hm.trans h.busy, hupc.trans (congrArg (· + 1) h.upc),
      (microStep_host hmicro).trans h.host, hop.trans h.op, (congrArg BitVec.toNat hn).trans h.count⟩
  · exact absurd hk hlast

/-- The number of the last micro-step (R107, R131). -/
theorem AtMicroStep.eq_last {s t : State} {k : Nat} (h : AtMicroStep s k t)
    (hk : transmitAt t = some (24 * t.regCount + 2)) :
    s.seqOp = .transmit ∧ k = 24 * s.regCount + 2 ∨ s.seqOp = .construct ∧ k = 24 * s.regCount + 6 := by
  have hrow := transmitAt_eq_some_iff.mp hk
  rw [h.op, h.upc, h.count] at hrow
  exact hrow.imp_right fun ⟨hop, hupc⟩ => ⟨hop, by omega⟩

/-- The number of micro-steps of the sequence `s` runs (R107, R131). -/
def SequenceLength (s : State) (length : Nat) : Prop :=
  s.seqOp = .transmit ∧ length = 24 * s.regCount + 3 ∨ s.seqOp = .construct ∧ length = 24 * s.regCount + 7

/-- Every micro-step of a sequence is reached, in as many steps as its number. -/
theorem Inv.runSteps_atMicroStep {s : State} (hi : Inv s) (hm : s.mode = .busy) (hupc : s.upc = 0) (hh : s.host = [])
    {length : Nat} (hlength : SequenceLength s length) :
    ∀ k < length, ∃ t, runSteps k s = .next t ∧ AtMicroStep s k t := by
  intro k hk
  induction k with
  | zero => exact ⟨s, rfl, hi, hm, hupc, hh, rfl, rfl⟩
  | succ k ih =>
    obtain ⟨t, hrun, ht⟩ := ih (by omega)
    have hnotLast : transmitAt t ≠ some (24 * t.regCount + 2) := by
      intro hrow
      rcases hlength with ⟨hop, hl⟩ | ⟨hop, hl⟩ <;> rcases ht.eq_last hrow with ⟨hop', hk'⟩ | ⟨hop', hk'⟩
      · omega
      · exact absurd (hop.symm.trans hop') (by decide)
      · exact absurd (hop.symm.trans hop') (by decide)
      · omega
    obtain ⟨u, hstep, hu⟩ := ht.advance hnotLast
    exact ⟨u, (runSteps_succ hrun).trans hstep, hu⟩

/-- While BUSY there is no response to read (R28, R211). -/
theorem hostResponse_of_busy {s : State} (hm : s.mode = .busy) : hostResponse s = none := by
  simp [hostResponse, commandEnded, hm]

/-- Settles O46: the sequence goes from micro-step to micro-step up to its last; the whole run is that of
`State.transmitted` or `State.constructed`. -/
theorem busyLastsExactlyTheMicroSteps : Obligations.BusyLastsExactlyTheMicroSteps := by
  intro s hi hm hupc hh
  obtain ⟨h1, hfits, hop⟩ := (modeOk_busy hm).mp hi.modes
  obtain ⟨hlen, -⟩ := hi.chain
  obtain ⟨hwf, -⟩ := hi.buffer
  have hbusy : ∀ {length}, SequenceLength s length →
      ∀ k < length, ∃ t, runSteps k s = .next t ∧ t.mode = .busy ∧ t.upc = k ∧ hostResponse t = none := by
    intro length hlength k hk
    obtain ⟨t, hrun, ht⟩ := hi.runSteps_atMicroStep hm hupc hh hlength k hk
    exact ⟨t, hrun, ht.busy, ht.upc, hostResponse_of_busy ht.busy⟩
  rcases hop with ⟨hop, -⟩ | ⟨hop, -⟩
  · have hrun : Transmitting s 0 :=
      { undisturbed_of_nil hm hh with row := transmitAt_of_upc (.inl ⟨hop, hupc⟩), fits := hfits }
    exact ⟨_, fun _ => rfl, fun h => by simp [hop] at h, hbusy (.inl ⟨hop, rfl⟩),
      _, hrun.runSteps_transmission h1 hlen, rfl, rfl⟩
  · have hrun : Constructing s 0 := { undisturbed_of_nil hm hh with op := hop, row := hupc, fits := hfits }
    exact ⟨_, fun h => by simp [hop] at h, fun _ => rfl, hbusy (.inr ⟨hop, rfl⟩),
      _, hrun.runSteps_constructed hwf h1, rfl, rfl⟩

/-! ## The host's moves and the modes -/

/-- Settles O14: the micro-step is the same whatever the host's moves, and is never refused. -/
theorem busyBlockAcceptsNoCommand : Obligations.BusyBlockAcceptsNoCommand := by
  intro s w rest hm
  have hnone : step { s with host := [] } = answerWithHost [] (microStep s) :=
    (undisturbed_of_nil (s := s.setHost []) hm rfl).step_eq_microStep.trans (microStep_setHost s [])
  have hword : step { s with host := .present w :: rest } = answerWithHost (.present w :: rest) (microStep s) :=
    (undisturbed_of_present (s := s.setHost (.present w :: rest)) hm rfl).step_eq_microStep.trans
      (microStep_setHost s _)
  rw [hnone, hword]
  cases h : microStep s with
  | next u => exact ⟨by rintro _ ⟨⟩; rfl, by rintro _ ⟨⟩, by rintro _ ⟨⟩⟩
  | fault f => exact ⟨by rintro _ ⟨⟩, by rintro _ ⟨⟩; rfl, by rintro _ ⟨⟩⟩
  | refused r => exact absurd h (microStep_ne_refused s r)

/-- Settles O10: a reset step runs `resetBlock`, which keeps the three. -/
theorem resetKeepsTheParametersAndTheHost : Obligations.ResetKeepsTheParametersAndTheHost := by
  intro s t rest hh h
  cases (step_of_reset hh).symm.trans h
  exact ⟨rfl, rfl, rfl⟩

/-- Settles O12: a presented word that decodes to a command is that command. -/
theorem stepRunsTheDecodedCommand : Obligations.StepRunsTheDecodedCommand :=
  fun _ _ _ _ hm hh hd => (step_of_present hm hh).trans (acceptWord_of_command hd _)

/-- Settles O13: a ready block reads the host's next move only. -/
theorem readyBlockHoldsItsState : Obligations.ReadyBlockHoldsItsState := by
  intro s hm
  exact ⟨fun hh => (step_of_ready (by simp [hh]) hm).trans (readyStep_of_nil hh),
    fun rest hh => (step_of_ready (by simp [hh]) hm).trans (readyStep_of_wait hh)⟩

/-- Settles O15: both mode checks stop first. -/
theorem commandWhileBusyIsStuck : Obligations.CommandWhileBusyIsStuck :=
  fun i _ hm => exec_of_busy i hm

/-- A step in BUSY with a word waiting leaves the word, `N` and the fault record. -/
theorem step_of_busy_present_frame {s t : State} {w : Word} {rest : List HostMove} (hm : s.mode = .busy)
    (hh : s.host = .present w :: rest) (h : step s = .next t) :
    t.host = s.host ∧ t.n = s.n ∧ t.lastFault = s.lastFault ∧ t.faultSeen = s.faultSeen := by
  have hmicro := (undisturbed_of_present hm hh).step_eq_microStep.symm.trans h
  obtain ⟨-, hframe⟩ := microStep_frame hmicro
  exact ⟨microStep_host hmicro, hframe⟩

/-- Settles O16: a ready block raises IllegalCommand; a BUSY block runs its micro-step. -/
theorem illegalWordRaisesIllegalCommand : Obligations.IllegalWordRaisesIllegalCommand := by
  intro s w why rest hd hh
  refine ⟨fun hm => step_of_illegal hd hm hh, fun t hm h => ?_⟩
  obtain ⟨hhost, -, hfault, hseen⟩ := step_of_busy_present_frame hm hh h
  exact ⟨hhost, hfault, hseen⟩

/-- Settles O18: an IDLE block raises AlreadyConstructed; a BUSY block runs its micro-step. -/
theorem secondConstructRaisesAlreadyConstructed : Obligations.SecondConstructRaisesAlreadyConstructed := by
  refine ⟨fun n s hm => ⟨execConstruct_of_idle hm, rfl⟩, fun n s t w rest _ hh hm h => ?_⟩
  obtain ⟨hhost, hn, -⟩ := step_of_busy_present_frame hm hh h
  exact ⟨hhost, hn⟩

/-- Settles O58: of the micro-steps the zeroing step and the last write `DIRTY`, of the commands the buffer commands. -/
theorem dirtyIsSetByMutationAndClearedByTransmission :
    Obligations.DirtyIsSetByMutationAndClearedByTransmission := by
  intro s t hr h
  rcases step_next h with ⟨rest, hh, -⟩ | ⟨-, hm, h⟩ | ⟨w, rest, hh, -, h⟩ | ⟨rest, -, -, rfl⟩ | ⟨-, -, rfl⟩
  · exact absurd hh (hr rest)
  · rcases microStep_dirty h with hkept | ⟨hset, hop, hupc⟩ | ⟨hclear, hidle, hk⟩
    · exact .inl hkept
    · exact .inr (.inl ⟨hset, .inl ⟨hm, hop, hupc⟩⟩)
    · exact .inr (.inr ⟨hclear, hm, hidle, hk⟩)
  · rcases acceptWord_next h with ⟨i, hd, h⟩ | ⟨_, -, rfl⟩
    · rcases exec_dirty h with hkept | ⟨hm, hi, hset, hresp⟩
      · exact .inl hkept
      · exact .inr (.inl ⟨hset, .inr ⟨w, rest, i, hm, hh, hd, hresp, hi⟩⟩)
    · exact .inl rfl
  · exact .inl rfl
  · exact .inl rfl

/-! ## The data line and the clock (R135, R136) -/

section
variable {s t : State} {a : MicroAct} (hi : Inv s) (hm : s.mode = .busy) (hrow : NextRow s a)
  (h : runAct a s = .next t)
include hi hm hrow h

/-- Only the row that sends a bit writes SDATA, and it finds SCLK and LATCH LOW. -/
theorem Inv.low_of_sdata_write {lvl : Level} (htrace : t.trace = s.trace ++ [.write .sdata lvl]) :
    s.lines.sclk.level = .known .low ∧ s.lines.latch.level = .known .low := by
  obtain rfl | ⟨-, j, rfl⟩ := act_of_trace_write h htrace
  · cases hrow
  · cases hrow with
    | bit hj hk =>
      obtain ⟨-, hlines⟩ := hi.transmitLines hm hk
      obtain ⟨hlatch, hclock, -⟩ := (transmitLines_bit hj).mp hlines
      exact ⟨hclock, hlatch⟩

/-- The two rows that write SCLK find LATCH LOW. -/
theorem Inv.low_of_sclk_write {lvl : Level} (htrace : t.trace = s.trace ++ [.write .sclk lvl]) :
    s.lines.latch.level = .known .low := by
  obtain rfl | ⟨hl, -⟩ := act_of_trace_write h htrace
  · cases hrow with
    | clockLow hj hk =>
      obtain ⟨-, hlines⟩ := hi.transmitLines hm hk
      exact ((transmitLines_clockLow (Nat.le_of_lt hj)).mp hlines).1
    | clockHigh hj hk =>
      obtain ⟨-, hlines⟩ := hi.transmitLines hm hk
      exact ((transmitLines_clockHigh hj).mp hlines).1
  · cases hl

/-- A rise of SCLK is the row of a bit, finds it on SDATA, and brings it to stage 0. -/
theorem Inv.data_of_clock_rise (htrace : t.trace = s.trace ++ [.write .sclk .high]) :
    s.lines.sclk.level = .known .low ∧ ∃ j, j < 8 * s.regCount ∧ transmitAt s = some (3 + 3 * j) ∧
      s.lines.sdata.level = .known (levelOf (s.out (8 * s.regCount - 1 - j))) ∧
      t.stages[0]? = some (s.out (8 * s.regCount - 1 - j)) := by
  obtain rfl | ⟨hl, -⟩ := act_of_trace_write h htrace
  · cases hrow with
    | @clockHigh j hj hk =>
      obtain ⟨-, hlines⟩ := hi.transmitLines hm hk
      obtain ⟨-, hclock, hdata⟩ := (transmitLines_clockHigh hj).mp hlines
      obtain ⟨hlen, -⟩ := hi.chain
      cases h
      refine ⟨hclock, j, hj, hk, hdata, ?_⟩
      exact (congrArg (·[0]?) (pinWrite_sclk_rise_stages hclock hdata)).trans (shiftStages_getElem? _ _ (by omega))
  · cases hl

end

/-- Settles O60, row by row: which row writes the line, and what the invariant says of the lines before it. -/
theorem dataIsStableWhenTheClockRises : Obligations.DataIsStableWhenTheClockRises := by
  intro s t hi hr hm h
  have hi' : Inv (s.setHost (movesAfterBusy s.host)) := hi.setHost _
  obtain ⟨a, hrow, h⟩ := microStep_row ((step_of_busy hr hm).symm.trans h)
  exact ⟨fun _ htrace => hi'.low_of_sdata_write hm hrow h htrace,
    fun _ htrace => hi'.low_of_sclk_write hm hrow h htrace, fun htrace => hi'.data_of_clock_rise hm hrow h htrace⟩

end Sys2Proof.Safety

/-! # The buffer (41_buffer.md), QUERY (43_query.md) and elaboration (00_scope.md R5, R8) -/

namespace Sys2Proof.Machine

/-! ## Logical outputs of a buffer (R52, R110) -/

/-- Bit `b` of byte `k` after logical output `index` is set: the one bit `8k + b = index` changes. -/
theorem Memory.getLsbD_setOutput {m : Memory} (h : m.wf = true) (index : Nat) (value : Bool) (k : Nat) {b : Nat}
    (hb : b < 8) :
    ((m.setOutput index value).read k).getLsbD b = if 8 * k + b = index then value else (m.read k).getLsbD b := by
  by_cases hk : k = byteIndex index
  · have hi : 8 * byteIndex index + b = index ↔ b = bitIndex index := by unfold byteIndex bitIndex; omega
    simp only [hk, hi, Memory.read_setOutput_getLsbD h index value hb]
  · have hi : 8 * k + b ≠ index := by unfold byteIndex at hk; omega
    rw [Memory.read_setOutput_of_ne h value hk, if_neg hi]

theorem Memory.wf_setOutput {m : Memory} (h : m.wf = true) (index : Nat) (value : Bool) :
    (m.setOutput index value).wf = true :=
  Memory.wf_write _ _ h

/-- Two canonical buffers with the same bits are the same data. -/
theorem Memory.ext_of_bits {m m' : Memory} (h : m.wf = true) (h' : m'.wf = true)
    (hbits : ∀ k, ∀ b < 8, (m.read k).getLsbD b = (m'.read k).getLsbD b) : m = m' :=
  Memory.ext_of_read h h' fun k => BitVec.eq_of_getLsbD_eq (hbits k)

/-- Different outputs are set in either order (R110). -/
theorem Memory.setOutput_comm {m : Memory} (h : m.wf = true) {i j : Nat} (v w : Bool) (hij : i ≠ j) :
    (m.setOutput i v).setOutput j w = (m.setOutput j w).setOutput i v := by
  have hi := Memory.wf_setOutput h i v
  have hj := Memory.wf_setOutput h j w
  refine Memory.ext_of_bits (Memory.wf_setOutput hi j w) (Memory.wf_setOutput hj i v) fun k b hb => ?_
  rw [Memory.getLsbD_setOutput hi j w k hb, Memory.getLsbD_setOutput h i v k hb,
    Memory.getLsbD_setOutput hj i v k hb, Memory.getLsbD_setOutput h j w k hb]
  split
  · next hkj => rw [if_neg (hkj ▸ hij.symm)]
  · rfl

/-- Of two values of one output the later stays (R110). -/
theorem Memory.setOutput_setOutput {m : Memory} (h : m.wf = true) (i : Nat) (v w : Bool) :
    (m.setOutput i v).setOutput i w = m.setOutput i w := by
  have hi := Memory.wf_setOutput h i v
  refine Memory.ext_of_bits (Memory.wf_setOutput hi i w) (Memory.wf_setOutput h i w) fun k b hb => ?_
  rw [Memory.getLsbD_setOutput hi i w k hb, Memory.getLsbD_setOutput h i w k hb, Memory.getLsbD_setOutput h i v k hb]
  split <;> rfl

/-- The configurations that are not refused (R5, R8). -/
theorem configOk_iff {c : Config} :
    configOk c = true ↔ 1 ≤ c.maxRegs ∧ c.maxRegs ≤ 8191 ∧
      c.serPin ≠ c.clkPin ∧ c.serPin ≠ c.latPin ∧ c.clkPin ≠ c.latPin := by
  simp [configOk, and_assoc]

end Sys2Proof.Machine

namespace Sys2Proof.Safety

open Sys2Proof.Machine

/-- Settles O25: CLEAR is SETALL 0. -/
theorem clearZeroesTheBuffer : Obligations.ClearZeroesTheBuffer := by
  intro s hbuf hle
  obtain ⟨hunconfigured, hidle⟩ := setallFillsTheBuffer false s hbuf hle
  exact ⟨hunconfigured, hidle⟩

/-- Settles O28: the states differ in the buffer only, and buffers with the same bits are the same. -/
theorem setpinsCommuteOrTheLaterWins : Obligations.SetpinsCommuteOrTheLaterWins := by
  intro i j v w s hbuf hm hle hi hj
  obtain ⟨hwf, -⟩ := hbuf
  refine ⟨_, _, _, _, execSetpin_of_lt hm hi hle,
    execSetpin_of_lt (s := s.mutated (s.buf.setOutput i v)) hm hj hle, execSetpin_of_lt hm hj hle,
    execSetpin_of_lt (s := s.mutated (s.buf.setOutput j w)) hm hi hle, fun hij => ?commute, ?later⟩
  case commute =>
    exact congrArg ((s.mutated s.buf).mutated ·) (Memory.setOutput_comm hwf v w hij)
  case later =>
    rintro rfl
    exact ⟨Memory.setOutput_setOutput hwf i v w, Memory.setOutput_setOutput hwf i w v⟩

/-- Settles O29: QUERY answers the response word of `DIRTY`. -/
theorem queryReportsTheDirtyFlag : Obligations.QueryReportsTheDirtyFlag := by
  intro s
  have hquery : s.mode = .idle → exec .query s = .next (s.respond (responseWord s.dirty 0)) :=
    fun hm => whenConstructed_idle _ hm
  have hdirty : s.dirty = true → responseWord s.dirty 0 = 0x10 := fun hd => by rw [hd]; decide
  have hclean : s.dirty = false → responseWord s.dirty 0 = 0x00 := fun hd => by rw [hd]; decide
  refine ⟨fun hm => whenConstructed_recordFault _ hm, fun hm hd => ?_, fun hm hd => ?_⟩
  · rw [hquery hm, hdirty hd]; rfl
  · rw [hquery hm, hclean hd]; rfl

/-- Settles O11: `configOk_iff` names the configurations that are not refused. -/
theorem elaborationRefusesIllegalParameters : Obligations.ElaborationRefusesIllegalParameters := by
  refine ⟨rfl, fun c => ⟨fun h => ⟨if_pos (configOk_iff.mpr h), rfl⟩, fun h => if_neg fun hc => ?_⟩⟩
  obtain ⟨h1, hmax, hsc, hsl, hcl⟩ := configOk_iff.mp hc
  rcases h with h | h | h | h | h
  · omega
  · omega
  · exact hsc h
  · exact hsl h
  · exact hcl h

/-- Settles O42: the accepting step is `startSequence` on the block with its count. -/
theorem constructIsAccepted : Obligations.ConstructIsAccepted := by
  intro n s hc hm h1 hle
  have hl : legalCount s.cfg n = true := legalCount_iff.mpr (by omega)
  obtain ⟨hn, -⟩ := setCount_regCount hc hl
  exact ⟨_, execConstruct_of_legal hm hl, hn, freeBits_length _ n, freeBits_length _ n, rfl⟩

/-- Settles O43, by mode. -/
theorem transmitIsAccepted : Obligations.TransmitIsAccepted :=
  fun _ => ⟨fun hm => whenConstructed_recordFault _ hm, fun hm => whenConstructed_idle _ hm⟩

/-- Settles O36, line by line: at SCLK the sampled bit is the known level of SDATA. -/
theorem machineFollowsTheRisingReading : Obligations.MachineFollowsTheRisingReading := by
  intro s l lvl d hd
  cases l with
  | sdata => rfl
  | sclk =>
    have hbit : s.sampledBit = decide (s.lines.sdata.level.physical = .high) := by
      rw [State.sampledBit, hd]; rfl
    simp only [State.probe, Probe.event, followOutputs, pinWrite_sclk_stages, pinWrite_sclk_outs, pinWrite_lines, hbit]
    rfl
  | latch => rfl

/-! # The transitions of a transmission (42_transmit.md R143) -/

/-- The bits at the positions `js`, then the rise of LATCH. -/
def bitsThenLatch (f : Nat → Bool) (js : List Nat) : List LineEvent :=
  js.flatMap (fun j => bitEvents (f j)) ++ [.write .latch .high]

/-- A bit more is three events more. -/
theorem bitsThenLatch_cons (f : Nat → Bool) (j : Nat) (js : List Nat) :
    bitsThenLatch f (j :: js) =
      .write .sclk .low :: .write .sdata (levelOf (f j)) :: .write .sclk .high :: bitsThenLatch f js := rfl

theorem transmitEvents_eq_bitsThenLatch (n : Nat) (out : Nat → Bool) :
    transmitEvents n out =
      .write .latch .low :: bitsThenLatch (fun j => out (8 * n - 1 - j)) (List.range (8 * n)) := rfl

section
variable (f : Nat → Bool)

/-- Each bit raises SCLK once, whatever its level before. -/
theorem risingCount_sclk_bitsThenLatch (js : List Nat) (cur : Level) :
    risingCount .sclk cur (bitsThenLatch f js) = js.length := by
  induction js generalizing cur with
  | nil => rfl
  | cons j js ih =>
    rw [bitsThenLatch_cons]
    simp [risingCount, ih, Nat.add_comm]

/-- Each bit but the first finds SCLK HIGH and drives it LOW. -/
theorem fallingCount_sclk_bitsThenLatch (j : Nat) (js : List Nat) (cur : Level) :
    fallingCount .sclk cur (bitsThenLatch f (j :: js)) = js.length + (if cur = .high then 1 else 0) := by
  induction js generalizing j cur with
  | nil => cases cur <;> rfl
  | cons j' js ih =>
    rw [bitsThenLatch_cons]
    simp [fallingCount, ih, Nat.add_comm]

/-- No bit moves LATCH; the rise after the bits is its one transition. -/
theorem latchCounts_bitsThenLatch (js : List Nat) :
    risingCount .latch .low (bitsThenLatch f js) = 1 ∧ fallingCount .latch .low (bitsThenLatch f js) = 0 := by
  induction js with
  | nil => exact ⟨rfl, rfl⟩
  | cons j js ih => exact ih

end

/-- Settles O41: the fall of LATCH, the bits' transitions of SCLK, the rise of LATCH. -/
theorem transmissionTransitionCounts : Obligations.TransmissionTransitionCounts := by
  intro n out clk lat h1
  obtain ⟨hrise, hfall⟩ := latchCounts_bitsThenLatch (fun j => out (8 * n - 1 - j)) (List.range (8 * n))
  obtain ⟨j, js, hjs⟩ : ∃ j js, List.range (8 * n) = j :: js :=
    List.exists_cons_of_ne_nil (by simp; omega)
  have hlen : js.length = 8 * n - 1 := by
    have := congrArg List.length hjs
    simp only [List.length_range, List.length_cons] at this
    omega
  rw [transmitEvents_eq_bitsThenLatch]
  refine ⟨?sclkRises, ?latchRises, ?sclkFalls, ?latchFalls⟩
  case sclkRises => exact (risingCount_sclk_bitsThenLatch _ _ clk).trans List.length_range
  case latchRises => simp [risingCount, hrise]
  case sclkFalls => rw [hjs, ← hlen]; exact fallingCount_sclk_bitsThenLatch _ j js clk
  case latchFalls => simp [fallingCount, hfall]

end Sys2Proof.Safety

/-! # Two TRANSMITs with no mutation between them (42_transmit.md R139) -/

namespace Sys2Proof.Machine

open Sys2Proof.Safety

/-! ## A TRANSMIT while further words wait (R83, R130) -/

/-- The block after a TRANSMIT, from its accepting step to its last micro-step, the host's further moves `rest`. -/
def State.afterTransmit (s : State) (rest : List HostMove) : State :=
  (startSequence .transmit (s.setHost rest)).transmitted

theorem runSteps_afterTransmit {s : State} {rest : List HostMove} (hm : s.mode = .idle) (h1 : 1 ≤ s.regCount)
    (hle : s.regCount ≤ s.cfg.maxRegs) (hlen : s.stages.length = s.outputCount)
    (hh : s.host = .present 0x40000000#32 :: rest) (hrest : Undisturbed (startSequence .transmit (s.setHost rest))) :
    runSteps (1 + (24 * s.regCount + 3)) s = .next (s.afterTransmit rest) := by
  have htransmitting : Transmitting (startSequence .transmit (s.setHost rest)) 0 :=
    { hrest with row := rfl, fits := hle }
  exact runSteps_trans (runSteps_of_step (step_of_transmit hm hh) 0) (htransmitting.runSteps_transmission h1 hlen)

/-- A sequence is not disturbed by words that wait (R83, R211). -/
theorem undisturbed_of_words {s : State} {words : List Word} (hm : s.mode = .busy)
    (hh : s.host = words.map .present) : Undisturbed s := by
  cases words with
  | nil => exact undisturbed_of_nil hm hh
  | cons w words => exact undisturbed_of_present hm hh

/-! ## Commands that write the record only (R150, R160) -/

/-- The block with another fault record, other responses and other moves of the host. -/
def State.recorded (s : State) (fault : BitVec 4) (seen : Bool) (resp : Byte) (responses : List Byte)
    (moves : List HostMove) : State :=
  { s with lastFault := fault, faultSeen := seen, resp := resp, responses := responses, host := moves }

/-- A word that does not mutate an IDLE block: a QUERY, or one that faults. -/
def Harmless (s : State) (w : Word) : Prop := w = 0x50000000#32 ∨ (firstFault s w).isSome = true

/-- The faults look at the mode, the parameters and `N` only (R167). -/
theorem firstFault_congr {s t : State} (hm : t.mode = s.mode) (hc : t.cfg = s.cfg) (hn : t.n = s.n) (w : Word) :
    firstFault t w = firstFault s w := by
  have hcount : t.regCount = s.regCount := congrArg BitVec.toNat hn
  unfold firstFault
  rw [hm, hc, hcount]

theorem step_of_harmless {s : State} {w : Word} {rest : List HostMove} (hm : s.mode = .idle)
    (hle : s.regCount ≤ s.cfg.maxRegs) (hh : s.host = .present w :: rest) (hw : Harmless s w) :
    ∃ fault seen resp responses, step s = .next (s.recorded fault seen resp responses rest) := by
  have hready : (s.setHost rest).mode ≠ .busy := by simp [hm]
  rw [step_of_present (by simp [hm]) hh]
  rcases hw with rfl | hw
  · have hd : decode 0x50000000#32 = .command .query := by decide
    exact ⟨_, _, _, _, (acceptWord_of_command hd _).trans (whenConstructed_idle _ hm)⟩
  · obtain ⟨code, hcode⟩ := Option.isSome_iff_exists.mp hw
    have hreport := acceptWord_reports hready hle w
    rw [show firstFault (s.setHost rest) w = some code from hcode] at hreport
    exact ⟨_, _, _, _, hreport⟩

/-- A list of such words. -/
theorem runSteps_of_harmless {s : State} {words : List Word} {rest : List HostMove} (hm : s.mode = .idle)
    (hle : s.regCount ≤ s.cfg.maxRegs) (hh : s.host = words.map .present ++ rest) (hw : ∀ w ∈ words, Harmless s w) :
    ∃ fault seen resp responses, runSteps words.length s = .next (s.recorded fault seen resp responses rest) := by
  induction words generalizing s with
  | nil => exact ⟨s.lastFault, s.faultSeen, s.resp, s.responses, by rw [← show s.host = rest from hh]; rfl⟩
  | cons w words ih =>
    obtain ⟨fault, seen, resp, responses, hstep⟩ := step_of_harmless hm hle hh (hw w List.mem_cons_self)
    obtain ⟨fault', seen', resp', responses', hrun⟩ :=
      ih (s := s.recorded fault seen resp responses (words.map .present ++ rest)) hm hle rfl
        fun w' hw' => hw w' (List.mem_cons_of_mem w hw')
    exact ⟨fault', seen', resp', responses', (runSteps_of_step hstep _).trans hrun⟩

end Sys2Proof.Machine

namespace Sys2Proof.Safety

open Sys2Proof.Machine

/-- Settles O50: what is between the TRANSMITs writes the record only, so both send the same buffer, and the second
leaves the lines and the chain where the first did. -/
theorem transmitIsIdempotent : Obligations.TransmitIsIdempotent := by
  intro s between hi hm hbetween hh
  obtain ⟨h1, hle⟩ := hi.regCount_bounds (by simp [hm])
  obtain ⟨hlen, -⟩ := hi.chain
  obtain ⟨rest, hrest⟩ : ∃ rest, rest = between.map HostMove.present ++ [.present 0x40000000#32] := ⟨_, rfl⟩
  rw [← hrest] at hh
  have hfirst := runSteps_afterTransmit hm h1 hle hlen hh
    (undisturbed_of_words (words := between ++ [0x40000000#32]) rfl (by simpa using hrest))
  have hfaults : ∀ w, firstFault (s.afterTransmit rest) w = firstFault s w :=
    firstFault_congr (t := s.afterTransmit rest) hm.symm rfl rfl
  have hharmless : ∀ w ∈ between, Harmless (s.afterTransmit rest) w := fun w hw => by
    rw [Harmless, hfaults]
    exact hbetween w hw
  obtain ⟨fault, seen, resp, responses, hrun⟩ :=
    runSteps_of_harmless (s := s.afterTransmit rest) rfl hle hrest hharmless
  have hstages : (s.afterTransmit rest).stages.length = (s.afterTransmit rest).outputCount := by
    simp [State.afterTransmit, State.transmitted, State.outputCount, State.regCount]
  have hsecond := runSteps_afterTransmit
    (s := (s.afterTransmit rest).recorded fault seen resp responses [.present 0x40000000#32])
    rfl h1 hle hstages rfl (undisturbed_of_nil rfl rfl)
  exact ⟨_, _, hfirst, runSteps_trans hrun hsecond, rfl, rfl, rfl, rfl, rfl, rfl, rfl, rfl, rfl, rfl, rfl,
    rfl, rfl, rfl⟩

end Sys2Proof.Safety
